-- ==== Sys2Proof/Word.lean ====
section
/-! DEFINITION. The word and the bit sequence of the DESRP spec.

A bit sequence `Bits n` (00_scope.md R10, R11) is a bit vector: element `i` of the spec, counted from the
left, is `x.getMsbD i`, and the spec's `val(x)` is `x.toNat`. A bus word (R12) numbers the same bits from the right. -/

namespace Sys2Proof

/-- A 32-bit bus word (00_scope.md R8, R12). -/
abbrev Word := BitVec 32

/-- The spec's `Bits n` (00_scope.md R10): element `i` is `x.getMsbD i`. -/
abbrev Bits (n : Nat) := BitVec n

end Sys2Proof
end

