-- ==== Sys2Proof/Config.lean ====
section
/-! DEFINITION. What an implementation fixes, and the free values (92_eei_decisions.md, OPEN parameters).

`BASE` and `LATENCY` are constants without a body: nothing can be proved of their values.
`TABLES` is a record that every cipher function takes as an argument; its default contents stand in
Machine/Tables.lean, where a repair can reach them. -/

namespace Sys2Proof

/-- The two cipher operations (10_state.md R42, LOP). -/
inductive CipherOp where
  | enc
  | dec
  deriving DecidableEq, Repr

/-- The constant tables, one-based as the spec writes them (40_bit_sequences_and_tables.md R101).
The shift schedule is no part of the record: the source fixes it (R120). -/
structure Tables where
  ip : Vector Nat 64
  fp : Vector Nat 64
  e : Vector Nat 48
  p : Vector Nat 32
  pc1 : Vector Nat 56
  pc2 : Vector Nat 48
  /-- `s[i][row][col]`, `s[i]` being the spec's S(i+1). -/
  s : Vector (Vector (Vector Nat 16) 4) 8
  deriving DecidableEq, Repr

namespace Config

/-- OPEN parameter: which 32-byte slot of the address space the window occupies (20_memory.md R50, log 3). -/
opaque baseSlot : Nat

/-- `BASE`, a multiple of 32 (20_memory.md R50). -/
def base : Nat := 32 * baseSlot

/-- FREE VALUE `LATENCY` (70_reset_and_hazards.md R270, log 2): how many host accesses pass between acceptance
and completion of the accepted command number `serial`. It may depend on the operands too (R271), so that no claim
about timing can be proved. -/
opaque latency (serial : Nat) (op : CipherOp) (key : Bits 56) (block : Bits 64) : Nat

end Config

end Sys2Proof
end

