-- ==== Sys2Proof/Syntax.lean ====
section
/-! DEFINITION. The commands: one constructor for each row of spec/opcode_table.json.
No command has an operand field (30_encoding.md R72, R75). -/

namespace Sys2Proof

/-- The four commands a host writes to CMD (30_encoding.md R73). -/
inductive Instr where
  | nop
  | encrypt
  | decrypt
  | clear
  deriving DecidableEq, Repr

end Sys2Proof
end

