-- ==== Sys2Proof/WellFormed.lean ====
section
/-! DEFINITION. Well-formedness: of a command, and of the constant tables
(the construction checks of 40_bit_sequences_and_tables.md R129, each refused under a name of its own). -/

namespace Sys2Proof

/-- A command has no operands, so every command is well formed (30_encoding.md R72). -/
def Instr.wf : Instr → Bool
  | .nop => true
  | .encrypt => true
  | .decrypt => true
  | .clear => true

/-- Every entry is a one-based position in an input of length `n` (R101). -/
def inRange {B : Nat} (n : Nat) (t : Vector Nat B) : Bool :=
  t.toList.all fun v => decide (1 ≤ v ∧ v ≤ n)

/-- The entries are a permutation of 1..B (R105). -/
def isPermutation {B : Nat} (t : Vector Nat B) : Bool :=
  t.toList.isPerm ((List.range B).map (· + 1))

/-- `FP<IP<i> - 1> = i + 1` for every `i` (R115). -/
def invertsTable {B : Nat} (fp ip : Vector Nat B) : Bool :=
  (List.range B).all fun i => fp.getD (ip.getD i 0 - 1) 0 == i + 1

/-- Why a set of tables is refused at construction (R129, 93_implementation_defined.md I1). -/
inductive TableError where
  | ipNotPermutation
  | fpNotPermutation
  | fpNotInverseOfIp
  | pNotPermutation
  | eOutOfRange
  | pc1Malformed
  | pc2Malformed
  | sboxOutOfRange
  deriving DecidableEq, Repr

namespace Tables

/-- PC-1: distinct entries in 1..64, none a multiple of 8 (R118, R129). -/
def pc1Ok (t : Tables) : Bool :=
  inRange 64 t.pc1 && decide t.pc1.toList.Nodup && t.pc1.toList.all fun v => decide (v % 8 ≠ 0)

/-- PC-2: distinct entries in 1..56 (R119, R129). -/
def pc2Ok (t : Tables) : Bool :=
  inRange 56 t.pc2 && decide t.pc2.toList.Nodup

/-- Every S-box entry is in 0..15 (R111); the 4 x 16 shape is in the type. -/
def sOk (t : Tables) : Bool :=
  t.s.toList.all fun box => box.toList.all fun row => row.toList.all fun v => decide (v ≤ 15)

/-- The checks of R129 in its order; the first that fails names the refusal.
The lengths (48 entries of E, and so on) are in the types. -/
def build (t : Tables) : Except TableError Tables :=
  if isPermutation t.ip = false then .error .ipNotPermutation
  else if isPermutation t.fp = false then .error .fpNotPermutation
  else if isPermutation t.p = false then .error .pNotPermutation
  else if invertsTable t.fp t.ip = false then .error .fpNotInverseOfIp
  else if inRange 32 t.e = false then .error .eOutOfRange
  else if t.pc1Ok = false then .error .pc1Malformed
  else if t.pc2Ok = false then .error .pc2Malformed
  else if t.sOk = false then .error .sboxOutOfRange
  else .ok t

/-- The tables pass every check of R129. -/
def wf (t : Tables) : Bool :=
  isPermutation t.ip && isPermutation t.fp && isPermutation t.p && invertsTable t.fp t.ip
    && inRange 32 t.e && t.pc1Ok && t.pc2Ok && t.sOk

end Tables

/-- The construction check of a shift schedule (R129): 16 entries, which the type says, summing to 28. -/
def shiftOk (sh : Vector Nat 16) : Bool :=
  sh.toList.sum == 28

end Sys2Proof
end

