-- ==== Sys2Proof/Decode.lean ====
section
/-! DEFINITION. The command decoder, total on every 32-bit word and rejecting by name (30_encoding.md R72 to R74),
and after it the encoder. -/

namespace Sys2Proof

/-- Why a command word is illegal (30_encoding.md R74). -/
inductive DecodeError where
  /-- RSVD, bits [31:4], is not zero. -/
  | reservedBits
  /-- RSVD is zero and OP is in 0x4..0xF. -/
  | reservedOp
  deriving DecidableEq, Repr

/-- OP, bits [3:0] of the command word (30_encoding.md R72). -/
def opField (w : Word) : BitVec 4 :=
  w.extractLsb' 0 4

/-- RSVD, bits [31:4] of the command word (30_encoding.md R72). -/
def rsvdField (w : Word) : BitVec 28 :=
  w.extractLsb' 4 28

/-- The decoder (30_encoding.md R72, 43_engine_commands.md R190). -/
def decode (w : Word) : Except DecodeError Instr :=
  if rsvdField w ≠ 0 then .error .reservedBits
  else
    match (opField w).toNat with
    | 0 => .ok .nop
    | 1 => .ok .encrypt
    | 2 => .ok .decrypt
    | 3 => .ok .clear
    | _ => .error .reservedOp

/-- A row of the command map (30_encoding.md R73). -/
structure CommandRow where
  instr : Instr
  value : Word
  mask : Word
  deriving DecidableEq, Repr

/-- The command map of 30_encoding.md R73; a row's `value` is the spec's `match`. -/
def commandMap : List CommandRow :=
  [⟨.nop, 0x00000000, 0xFFFFFFFF⟩, ⟨.encrypt, 0x00000001, 0xFFFFFFFF⟩,
   ⟨.decrypt, 0x00000002, 0xFFFFFFFF⟩, ⟨.clear, 0x00000003, 0xFFFFFFFF⟩]

/-- `w & mask == match` (30_encoding.md R73). -/
def CommandRow.selects (r : CommandRow) (w : Word) : Bool :=
  w &&& r.mask == r.value

/-- The command word of a command: RSVD zero, OP as 30_encoding.md R72 lists it. -/
def encode : Instr → Word
  | .nop => 0x00000000
  | .encrypt => 0x00000001
  | .decrypt => 0x00000002
  | .clear => 0x00000003

/-- What the decoder reads from the instruction whose bits are `w`, `nbits` of them, numbered as
spec/opcode_table.json numbers them (one 32-bit word, written whole: R71).
Bits that no command word has cannot be written to CMD, so a longer value is no instruction (log 17). -/
def decodeTableWord (nbits w : Nat) : Option Instr :=
  let v := w % 2 ^ nbits
  if 2 ^ 32 ≤ v then none
  else
    match decode (BitVec.ofNat 32 v) with
    | .ok i => some i
    | .error _ => none

end Sys2Proof
end

