-- ==== Sys2Proof/Machine/Bus.lean ====
section
/-! DEFINITION. The register window's names and the host's actions (20_memory.md R50, R65; 30_encoding.md R77, R78). -/

namespace Sys2Proof.Machine

/-- The eight interface registers (10_state.md R21). -/
inductive Reg where
  | keyHi
  | keyLo
  | dinHi
  | dinLo
  | doutHi
  | doutLo
  | cmd
  | status
  deriving DecidableEq, Repr

/-- What a bus access asks for. An instruction fetch is never admitted (20_memory.md R55, R62). -/
inductive AccessKind where
  | read
  | write (w : Word)
  | fetch
  deriving DecidableEq, Repr

/-- One bus access to the window: its offset from `BASE` and its width in bits (20_memory.md R54, R55). -/
structure Access where
  off : Fin 32
  width : Nat
  kind : AccessKind
  deriving DecidableEq, Repr

/-- What the host can do to the block (20_memory.md R65), with the two host notations that are more than one
bare access: a read of which the program requires a value (30_encoding.md R77) and `WAIT` (R78). -/
inductive HostAction where
  /-- One bus access. -/
  | bus (a : Access)
  /-- `RD <reg>, <mask>, <value>`. -/
  | rdRequire (r : Reg) (mask value : Word)
  /-- `WAIT`: read STATUS until BUSY reads 0. -/
  | wait
  /-- Assert the reset input. -/
  | reset
  deriving DecidableEq, Repr

end Sys2Proof.Machine
end

