-- ==== Sys2Proof/Machine/State.lean ====
section
/-! DEFINITION. The state of the block and of its host as plain data, its value after reset, and the
reasons a step can stop. INVENTORY.md lists every field with its rule. -/

namespace Sys2Proof.Machine

/-- The STATUS register (10_state.md R29), one field for each of its fields.
Its reserved bits [31:12] are hard-wired 0 (R36) and no host write reaches it, so nothing else needs to be kept;
`Status.toWord` (Machine/Flags.lean) is the word a host reads. -/
structure Status where
  busy : Bool
  done : Bool
  err : Bool
  coll : Bool
  errCode : BitVec 4
  kvHi : Bool
  kvLo : Bool
  dvHi : Bool
  dvLo : Bool
  deriving DecidableEq, Repr

/-- STATUS after reset: 0x00000000 (10_state.md R47). -/
def Status.zero : Status where
  busy := false
  done := false
  err := false
  coll := false
  errCode := 0
  kvHi := false
  kvLo := false
  dvHi := false
  dvLo := false

/-- PHASE (10_state.md R42). -/
inductive Phase where
  | idle
  | run
  deriving DecidableEq, Repr

/-- The datapath's working values (10_state.md R43, R44), which no access can read. -/
structure Datapath where
  /-- SEED: elements 0..27 are C, 28..55 are D. -/
  seed : Bits 56
  /-- The round-key file RK. -/
  rk : Vector (Bits 48) 16
  l : Bits 32
  r : Bits 32
  /-- The round being computed. -/
  round : Fin 16
  deriving DecidableEq, Repr

/-- The datapath's values at reset, which the spec does not give: DESIGN CHOICE zero (log 5). -/
def Datapath.zero : Datapath where
  seed := 0
  rk := Vector.replicate 16 0
  l := 0
  r := 0
  round := 0

/-- The state of the block, and of the host that drives it. -/
structure State where
  /-- KEY_HI (10_state.md R22). -/
  keyHi : Word
  /-- KEY_LO[31:8], KEY32_55 (10_state.md R23); KEY_LO[7:0] is hard-wired 0 (R36). -/
  keyLo : Bits 24
  /-- DIN_HI (10_state.md R24). -/
  dinHi : Word
  /-- DIN_LO (10_state.md R25). -/
  dinLo : Word
  /-- DOUT_HI (10_state.md R26). -/
  doutHi : Word
  /-- DOUT_LO (10_state.md R27). -/
  doutLo : Word
  /-- STATUS (10_state.md R29). -/
  status : Status
  /-- PHASE (10_state.md R42). -/
  phase : Phase
  /-- LOP, the operation latched at acceptance (10_state.md R42). -/
  lop : CipherOp
  /-- LK, the key latched at acceptance (10_state.md R42). -/
  lk : Bits 56
  /-- LB, the block latched at acceptance (10_state.md R42). -/
  lb : Bits 64
  /-- SEED, RK, L, R and the round index (10_state.md R43). -/
  dp : Datapath
  /-- The model's own: the host actions still to come, in issue order (20_memory.md R59, log 1). -/
  pending : List HostAction
  /-- The model's own: the words reads have handed back to the host, newest first (20_memory.md R65, log 4). -/
  readBack : List Word
  /-- The model's own: every value a host program has required of a read was found (30_encoding.md R77, log 4). -/
  reqMet : Bool
  /-- The model's own: the number of cipher commands accepted so far (log 2). -/
  serial : Nat
  /-- The model's own: host accesses still to pass before the command in flight completes (log 2). -/
  due : Nat
  deriving DecidableEq, Repr

/-- The state right after reset (10_state.md R47, 70_reset_and_hazards.md R250), with no host action to come.
`dp` and the model's own fields are DESIGN CHOICE (logs 1, 2, 4, 5). -/
def State.reset : State where
  keyHi := 0
  keyLo := 0
  dinHi := 0
  dinLo := 0
  doutHi := 0
  doutLo := 0
  status := Status.zero
  phase := .idle
  lop := .enc
  lk := 0
  lb := 0
  dp := Datapath.zero
  pending := []
  readBack := []
  reqMet := true
  serial := 0
  due := 0

/-- Why a step stops with a fault. -/
inductive Fault where
  /-- Raised by a bus access that is not a 32-bit read or write at a multiple of 4, an instruction fetch
  included (20_memory.md R55, 60_exceptions.md R224). The spec itself makes it a fault of the host's step. Safe. -/
  | busFault (off : Fin 32) (width : Nat)
  deriving DecidableEq, Repr

/-- Why an instruction has no meaning. -/
inductive Refusal where
  /-- Raised by an arm of `exec` without a meaning; no arm is without one, so nothing raises it. Safe. -/
  | notModelled (mnemonic : String)
  deriving DecidableEq, Repr

end Sys2Proof.Machine
end

