-- ==== Sys2Proof/Machine/Flags.lean ====
section
/-! DEFINITION. STATUS: the word a host reads (30_encoding.md R76) and every way a flag is set or cleared
(10_state.md R29 to R35). No other operation of the model writes a flag (R41). -/

namespace Sys2Proof.Machine

namespace Status

/-- The STATUS word (10_state.md R29, 30_encoding.md R76), bits [31:12] zero (R36). -/
def toWord (f : Status) : Word :=
  (0 : BitVec 20) ++ BitVec.ofBool f.dvLo ++ BitVec.ofBool f.dvHi ++ BitVec.ofBool f.kvLo ++
    BitVec.ofBool f.kvHi ++ f.errCode ++ BitVec.ofBool f.coll ++ BitVec.ofBool f.err ++
    BitVec.ofBool f.done ++ BitVec.ofBool f.busy

/-- All four operand-valid flags are 1 (10_state.md R35). -/
def allValid (f : Status) : Bool :=
  f.kvHi && f.kvLo && f.dvHi && f.dvLo

/-- What ENCRYPT and DECRYPT do first: DONE, ERR and ERRCODE to 0 (43_engine_commands.md R192). -/
def forCommand (f : Status) : Status :=
  { f with done := false, err := false, errCode := 0 }

/-- An error with its code: DONE to 0, ERR to 1 (43_engine_commands.md R195, R203). -/
def withError (code : BitVec 4) (f : Status) : Status :=
  { f with done := false, err := true, errCode := code }

/-- Acceptance: BUSY to 1 (43_engine_commands.md R192). -/
def started (f : Status) : Status :=
  { f with busy := true }

/-- Completion: BUSY to 0, DONE to 1 (43_engine_commands.md R196). -/
def completed (f : Status) : Status :=
  { f with busy := false, done := true }

/-- A dropped command word: COLL to 1 (43_engine_commands.md R201). -/
def collided (f : Status) : Status :=
  { f with coll := true }

end Status

/-- ERRCODE of PreconditionViolation (10_state.md R29, 60_exceptions.md R221). -/
def preconditionCode : BitVec 4 := 1

/-- ERRCODE of IllegalCommand (10_state.md R29, 60_exceptions.md R222). -/
def illegalCode : BitVec 4 := 2

end Sys2Proof.Machine
end

