-- ==== Sys2Proof/Machine/Operands.lean ====
section
/-! DEFINITION. The operands of a cipher command and the words that carry them (10_state.md R37 to R39,
30_encoding.md R70, R75). -/

namespace Sys2Proof.Machine

namespace State

/-- KEYSEQ, the key operand (10_state.md R37). -/
def keySeq (s : State) : Bits 56 :=
  s.keyHi ++ s.keyLo

/-- BLKSEQ, the block operand (10_state.md R38). -/
def blkSeq (s : State) : Bits 64 :=
  s.dinHi ++ s.dinLo

/-- The result registers as one sequence (10_state.md R39). -/
def doutSeq (s : State) : Bits 64 :=
  s.doutHi ++ s.doutLo

/-- The word a host reads from KEY_LO: `KEY32_55 << 8` (10_state.md R23). -/
def keyLoWord (s : State) : Word :=
  s.keyLo ++ (0 : BitVec 8)

end State

/-- The key bits a word carries into KEY_LO: `w[31:8]` (10_state.md R23). -/
def keyLoField (w : Word) : Bits 24 :=
  w.extractLsb' 8 24

/-- The word for KEY_HI that carries a key: `k >> 24` (30_encoding.md R70). -/
def keyHiWordOf (k : Bits 56) : Word :=
  (k >>> 24).setWidth 32

/-- The word for KEY_LO that carries a key: `(k & 0xFFFFFF) << 8` (30_encoding.md R70). -/
def keyLoWordOf (k : Bits 56) : Word :=
  ((k &&& 0xFFFFFF).setWidth 32) <<< 8

/-- The first word of a block: `b >> 32`, its elements 0 to 31 (30_encoding.md R70, 10_state.md R39). -/
def hiWordOf (b : Bits 64) : Word :=
  (b >>> 32).setWidth 32

/-- The second word of a block: `b & 0xFFFFFFFF`, its elements 32 to 63 (30_encoding.md R70, 10_state.md R39). -/
def loWordOf (b : Bits 64) : Word :=
  (b &&& 0xFFFFFFFF).setWidth 32

end Sys2Proof.Machine
end

