-- ==== Sys2Proof/Machine/Ops.lean ====
section
/-! DEFINITION. The named operations on the block's state: reading and writing a register, raising an error,
dropping a word, accepting a cipher command, clearing, resetting.

There is no memory: the register window is the whole address space (10_state.md R46). -/

namespace Sys2Proof.Machine

namespace Reg

/-- The offset of a register from `BASE` (20_memory.md R50). -/
def offset : Reg → Fin 32
  | .keyHi => 0x00
  | .keyLo => 0x04
  | .dinHi => 0x08
  | .dinLo => 0x0C
  | .doutHi => 0x10
  | .doutLo => 0x14
  | .cmd => 0x18
  | .status => 0x1C

/-- The register at an offset; an offset that is not a multiple of 4 names none (20_memory.md R50, R55). -/
def atOffset (off : Fin 32) : Option Reg :=
  match off.val with
  | 0x00 => some .keyHi
  | 0x04 => some .keyLo
  | 0x08 => some .dinHi
  | 0x0C => some .dinLo
  | 0x10 => some .doutHi
  | 0x14 => some .doutLo
  | 0x18 => some .cmd
  | 0x1C => some .status
  | _ => none

end Reg

namespace State

/-- The value a host reads from a register (43_engine_commands.md R198). CMD stores nothing and reads 0. -/
def readReg (s : State) : Reg → Word
  | .keyHi => s.keyHi
  | .keyLo => s.keyLoWord
  | .dinHi => s.dinHi
  | .dinLo => s.dinLo
  | .doutHi => s.doutHi
  | .doutLo => s.doutLo
  | .cmd => 0
  | .status => s.status.toWord

/-- A host write to a register other than CMD (43_engine_commands.md R199); the same in both phases.
DOUT and STATUS ignore it, and so does CMD here: a write to CMD is a command (Machine/HostPort.lean). -/
def writeReg (s : State) (w : Word) : Reg → State
  | .keyHi => { s with keyHi := w, status := { s.status with kvHi := true } }
  | .keyLo => { s with keyLo := keyLoField w, status := { s.status with kvLo := true } }
  | .dinHi => { s with dinHi := w, status := { s.status with dvHi := true } }
  | .dinLo => { s with dinLo := w, status := { s.status with dvLo := true } }
  | .doutHi => s
  | .doutLo => s
  | .cmd => s
  | .status => s

/-- The result registers (10_state.md R39); both words change together (R27). -/
def setDout (s : State) (out : Bits 64) : State :=
  { s with doutHi := hiWordOf out, doutLo := loWordOf out }

/-- TAKING AN ERROR: the one operation by which PreconditionViolation and IllegalCommand are recorded
(60_exceptions.md R221, R222). "Trap entry" is exactly this STATUS update (R228); nothing is saved and nothing
is jumped to. There is no return from it (R229): the next ENCRYPT, DECRYPT or CLEAR clears it. -/
def raiseError (s : State) (code : BitVec 4) : State :=
  { s with status := s.status.withError code }

/-- A command word dropped while busy (43_engine_commands.md R201, 60_exceptions.md R225). -/
def collide (s : State) : State :=
  { s with status := s.status.collided }

/-- What an ENCRYPT or DECRYPT decoded while idle does before its operand check (43_engine_commands.md R192). -/
def beginCipher (s : State) : State :=
  { s.setDout 0 with status := s.status.forCommand }

/-- Acceptance (43_engine_commands.md R192): the operands are latched and the engine starts.
`due` takes this command's LATENCY, a free value (log 2). -/
def accept (s : State) (op : CipherOp) : State :=
  { s with
    lk := s.keySeq
    lb := s.blkSeq
    lop := op
    phase := .run
    status := s.status.started
    serial := s.serial + 1
    due := Config.latency s.serial op s.keySeq s.blkSeq }

/-- The shared effect of ENCRYPT and DECRYPT (43_engine_commands.md R192, R193, R201, R203), in the order of
60_exceptions.md R227: busy, then a missing operand, then the command. -/
def startCipher (s : State) (op : CipherOp) : State :=
  match s.phase with
  | .run => s.collide
  | .idle =>
    if s.status.allValid then s.beginCipher.accept op
    else s.beginCipher.raiseError preconditionCode

/-- The effect of CLEAR while idle (43_engine_commands.md R194). -/
def clearAll (s : State) : State :=
  { s with
    keyHi := 0
    keyLo := 0
    dinHi := 0
    dinLo := 0
    doutHi := 0
    doutLo := 0
    status := Status.zero
    lk := 0
    lb := 0
    lop := .enc }

/-- The effect of the reset input on the block (70_reset_and_hazards.md R250, R251); the host's own fields and the
command counter are not the block's and stay (log 13). -/
def applyReset (s : State) : State :=
  { State.reset with
    pending := s.pending
    readBack := s.readBack
    reqMet := s.reqMet
    serial := s.serial }

end State

end Sys2Proof.Machine
end

