-- ==== Sys2Proof/Machine/CipherCommands.lean ====
section
/-! DEFINITION. The commands that start a cipher operation: ENCRYPT and DECRYPT. Each ends at its acceptance;
the result comes with the engine's completion step (Machine/Engine.lean). -/

namespace Sys2Proof.Machine

/-- ENCRYPT (43_engine_commands.md R192, R203; R201 while busy). -/
def execEncrypt (s : State) : Host.Outcome State Fault Refusal :=
  .next (s.startCipher .enc)

/-- DECRYPT (43_engine_commands.md R193, R203; R201 while busy). -/
def execDecrypt (s : State) : Host.Outcome State Fault Refusal :=
  .next (s.startCipher .dec)

end Sys2Proof.Machine
end

