-- ==== Sys2Proof/Machine/Control.lean ====
section
/-! DEFINITION. The commands that start no cipher operation: NOP and CLEAR. -/

namespace Sys2Proof.Machine

/-- NOP (43_engine_commands.md R191): no effect, idle or busy. -/
def execNop (s : State) : Host.Outcome State Fault Refusal :=
  .next s

/-- CLEAR (43_engine_commands.md R194); while busy it is dropped (R201). -/
def execClear (s : State) : Host.Outcome State Fault Refusal :=
  match s.phase with
  | .run => .next s.collide
  | .idle => .next s.clearAll

end Sys2Proof.Machine
end

