-- ==== Sys2Proof/Machine/BitSeq.lean ====
section
/-! DEFINITION. The bit-sequence primitives of 40_bit_sequences_and_tables.md R100 to R108. Each is a value-to-value
function; none touches the machine's state (R100). -/

namespace Sys2Proof.Machine

/-- The `Bits n` whose element `i` is `f i`. -/
def build : (n : Nat) → (Nat → Bool) → Bits n
  | 0, _ => 0#0
  | n + 1, f => (build n f).concat (f n)

/-- `x<a .. a+n-1>` (00_scope.md R10). -/
def slice {m : Nat} (a n : Nat) (x : Bits m) : Bits n :=
  build n fun j => x.getMsbD (a + j)

/-- apply (R102): element `i` of the result is element `T<i> - 1` of the input. What an entry outside 1..A gives, in a table
that construction refuses, is a DESIGN CHOICE (log 21). -/
def apply {A B : Nat} (x : Bits A) (t : Vector Nat B) : Bits B :=
  build B fun i => x.getMsbD (t.getD i 0 - 1)

/-- The zero-based place at which the one-based table `t` names position `j + 1`. -/
def placeOf {B : Nat} (t : Vector Nat B) (j : Nat) : Nat :=
  t.toList.idxOf (j + 1)

/-- apply_inverse (R104), refused on a table that is not a permutation of 1..B (R105). -/
def applyInverse {B : Nat} (y : Bits B) (t : Vector Nat B) : Option (Bits B) :=
  if isPermutation t then some (build B fun j => y.getMsbD (placeOf t j)) else none

/-- apply_inverse of the identity, as a table (R115). -/
def invertTable {B : Nat} (t : Vector Nat B) : Option (Vector Nat B) :=
  if isPermutation t then some (Vector.ofFn fun j => placeOf t j.val + 1) else none

/-- rotl (R106): every element moves toward index 0, the first `s` wrap to the end. R106 takes `s` below `n`: that a longer
rotation is its remainder modulo `n` is a DESIGN CHOICE (log 20). -/
def rotl {n : Nat} (h : Bits n) (s : Nat) : Bits n :=
  build n fun i => h.getMsbD ((i + s) % n)

/-- chunk (R108): the 6-bit chunk number `i` of a 48-bit sequence. -/
def chunk (x : Bits 48) (i : Fin 8) : Bits 6 :=
  slice (6 * i.val) 6 x

end Sys2Proof.Machine
end

