-- ==== Sys2Proof/Machine/Feistel.lean ====
section
/-! DEFINITION. The S-box bank (40_bit_sequences_and_tables.md R109, R110) and the Feistel round
(42_feistel_round.md R160 to R166), for any tables `T`. -/

namespace Sys2Proof.Machine

/-- The row of an S-box that a chunk selects: its first and last bit, the first more significant (R109). -/
def sboxRow (c : Bits 6) : Fin 4 :=
  ⟨2 * (c.getMsbD 0).toNat + (c.getMsbD 5).toNat, by
    have := Bool.toNat_lt (c.getMsbD 0); have := Bool.toNat_lt (c.getMsbD 5); omega⟩

/-- The column that a chunk selects: its middle four bits, element 1 the most significant (R109). -/
def sboxCol (c : Bits 6) : Fin 16 :=
  (slice 1 4 c).toFin

/-- sbox_lookup (R109). That an entry above 15, in a table that construction refuses (R111, R129), gives its low four bits is a
DESIGN CHOICE (log 21). -/
def sboxLookup (T : Tables) (i : Fin 8) (c : Bits 6) : Bits 4 :=
  BitVec.ofNat 4 T.s[i][sboxRow c][sboxCol c]

/-- substitute (R110): the eight nibbles, S-box 0's first. -/
def substitute (T : Tables) (x : Bits 48) : Bits 32 :=
  sboxLookup T 0 (chunk x 0) ++ sboxLookup T 1 (chunk x 1) ++ sboxLookup T 2 (chunk x 2) ++
    sboxLookup T 3 (chunk x 3) ++ sboxLookup T 4 (chunk x 4) ++ sboxLookup T 5 (chunk x 5) ++
    sboxLookup T 6 (chunk x 6) ++ sboxLookup T 7 (chunk x 7)

/-- feistel, the round function f (42_feistel_round.md R160 to R164). -/
def feistel (T : Tables) (half : Bits 32) (rk : Bits 48) : Bits 32 :=
  apply (substitute T (apply half T.e ^^^ rk)) T.p

/-- round_fwd (42_feistel_round.md R165). -/
def roundFwd (T : Tables) (lr : Bits 32 × Bits 32) (k : Bits 48) : Bits 32 × Bits 32 :=
  (lr.2, lr.1 ^^^ feistel T lr.2 k)

/-- round_bwd (42_feistel_round.md R166). -/
def roundBwd (T : Tables) (lr : Bits 32 × Bits 32) (k : Bits 48) : Bits 32 × Bits 32 :=
  (lr.2 ^^^ feistel T lr.1 k, lr.1)

end Sys2Proof.Machine
end

