-- ==== Sys2Proof/Machine/KeySchedule.lean ====
section
/-! DEFINITION. The key schedule (41_key_schedule.md R140 to R145), for any tables `T`. -/

namespace Sys2Proof.Machine

/-- pad (R141) with placeholder bit `ph` at the zero-based positions 7, 15, ..., 63. -/
def padWith (ph : Bool) (raw : Bits 56) : Bits 64 :=
  build 64 fun i => if i % 8 = 7 then ph else raw.getMsbD (7 * (i / 8) + i % 8)

/-- pad (R141): the placeholder is 0. -/
def pad (raw : Bits 56) : Bits 64 :=
  padWith false raw

/-- preprocess (R142): the initial seed. -/
def preprocess (T : Tables) (raw : Bits 56) : Bits 56 :=
  apply (pad raw) T.pc1

/-- The half C of a seed (R142). -/
def halfC (seed : Bits 56) : Bits 28 :=
  slice 0 28 seed

/-- The half D of a seed (R142). -/
def halfD (seed : Bits 56) : Bits 28 :=
  slice 28 28 seed

/-- Both halves rotated left by `n` (R143, R146). -/
def rotlHalves (seed : Bits 56) (n : Nat) : Bits 56 :=
  rotl (halfC seed) n ++ rotl (halfD seed) n

/-- advance (R143). -/
def advance (seed : Bits 56) (r : Fin 16) : Bits 56 :=
  rotlHalves seed shiftTable[r]

/-- compress (R144). -/
def compress (T : Tables) (seed : Bits 56) : Bits 48 :=
  apply seed T.pc2

/-- The seed after the rounds of the list, in its order (the loop of R145). -/
def seedAfter (seed : Bits 56) (rs : List (Fin 16)) : Bits 56 :=
  rs.foldl advance seed

/-- deriveAllRoundKeys (R145): round `r`'s key is taken after the rotations of rounds 0 to `r`. -/
def deriveAllRoundKeys (T : Tables) (raw : Bits 56) : Vector (Bits 48) 16 :=
  Vector.ofFn fun r => compress T (seedAfter (preprocess T raw) (rounds.take (r.val + 1)))

end Sys2Proof.Machine
end

