-- ==== Sys2Proof/Machine/Cipher.lean ====
section
/-! DEFINITION. The cipher functions (43_engine_commands.md R180, R181), for any tables `T`. -/

namespace Sys2Proof.Machine

/-- split (00_scope.md R10) of a block into two halves. -/
def splitHalves (t : Bits 64) : Bits 32 × Bits 32 :=
  (slice 0 32 t, slice 32 32 t)

/-- `L ++ R`. -/
def joinHalves (lr : Bits 32 × Bits 32) : Bits 64 :=
  lr.1 ++ lr.2

/-- Encrypt (R180). The final permutation takes `L ++ R` as the last round left them: there is no swap. -/
def encrypt (T : Tables) (b : Bits 64) (k : Bits 56) : Bits 64 :=
  let rk := deriveAllRoundKeys T k
  let lr := rounds.foldl (fun lr r => roundFwd T lr rk[r]) (splitHalves (apply b T.ip))
  apply (joinHalves lr) T.fp

/-- Decrypt (R181): the same keys in reverse order, each round run backward. -/
def decrypt (T : Tables) (c : Bits 64) (k : Bits 56) : Bits 64 :=
  let rk := deriveAllRoundKeys T k
  let lr := rounds.reverse.foldl (fun lr r => roundBwd T lr rk[r]) (splitHalves (apply c T.ip))
  apply (joinHalves lr) T.fp

/-- The function that completion evaluates (R196). -/
def cipher (T : Tables) (op : CipherOp) (b : Bits 64) (k : Bits 56) : Bits 64 :=
  match op with
  | .enc => encrypt T b k
  | .dec => decrypt T b k

end Sys2Proof.Machine
end

