-- ==== Sys2Proof/Machine/Engine.lean ====
section
/-! DEFINITION. The engine: its datapath in the reference sequence of 43_engine_commands.md R197, and its only step,
completion (R196). -/

namespace Sys2Proof.Machine

namespace Datapath

/-- The seed of a new command (41_key_schedule.md R142). -/
def loadKey (T : Tables) (key : Bits 56) (d : Datapath) : Datapath :=
  { d with seed := preprocess T key }

/-- One round of the key schedule: rotate the seed, then write the round-key file (41_key_schedule.md R145). -/
def keyRound (T : Tables) (d : Datapath) (r : Fin 16) : Datapath :=
  { d with
    round := r
    seed := advance d.seed r
    rk := d.rk.set r (compress T (advance d.seed r)) }

/-- The initial permutation and the split (43_engine_commands.md R180). -/
def loadBlock (T : Tables) (block : Bits 64) (d : Datapath) : Datapath :=
  { d with l := (splitHalves (apply block T.ip)).1, r := (splitHalves (apply block T.ip)).2 }

/-- One Feistel round on the halves, with the key of round `r` (43_engine_commands.md R180, R181). -/
def cipherRound (T : Tables) (op : CipherOp) (d : Datapath) (r : Fin 16) : Datapath :=
  let lr := match op with
    | .enc => roundFwd T (d.l, d.r) d.rk[r]
    | .dec => roundBwd T (d.l, d.r) d.rk[r]
  { d with round := r, l := lr.1, r := lr.2 }

/-- The order in which an operation takes the rounds (43_engine_commands.md R180, R181). -/
def order : CipherOp → List (Fin 16)
  | .enc => rounds
  | .dec => rounds.reverse

/-- The reference sequence of 43_engine_commands.md R197 up to the last round. -/
def run (T : Tables) (op : CipherOp) (key : Bits 56) (block : Bits 64) (d : Datapath) : Datapath :=
  (order op).foldl (cipherRound T op)
    (loadBlock T block (rounds.foldl (keyRound T) (loadKey T key d)))

/-- The write-back of 43_engine_commands.md R197: FP of the halves. -/
def out (T : Tables) (d : Datapath) : Bits 64 :=
  apply (joinHalves (d.l, d.r)) T.fp

end Datapath

namespace State

/-- The result that completion writes (43_engine_commands.md R196). -/
def result (s : State) : Bits 64 :=
  cipher tables s.lop s.lb s.lk

/-- The completion step (43_engine_commands.md R196). The datapath keeps its last values, which nothing can read
(93_implementation_defined.md I14, log 5). -/
def complete (s : State) : State :=
  { s.setDout s.result with
    status := s.status.completed
    phase := .idle
    dp := s.dp.run tables s.lop s.lk s.lb }

end State

end Sys2Proof.Machine
end

