-- ==== Sys2Proof/Machine/HostPort.lean ====
section
/-! DEFINITION. The host's side: bus accesses (20_memory.md, 43_engine_commands.md R190, R198 to R200), the host notation
(30_encoding.md R77, R78), reset, and whose turn it is (log 2). -/

namespace Sys2Proof.Machine

/-- The register an access reaches if it is admitted: 32 bits wide, at a multiple of 4, no fetch (20_memory.md R54, R55). -/
def Access.admitted (a : Access) : Option Reg :=
  match a.kind with
  | .fetch => none
  | _ => if a.width = 32 then Reg.atOffset a.off else none

/-- An illegal command word (43_engine_commands.md R195); while busy it is dropped like any other (R201). -/
def illegalCommand (s : State) : State :=
  match s.phase with
  | .run => s.collide
  | .idle => s.raiseError illegalCode

/-- A write to CMD (43_engine_commands.md R190). -/
def cmdWrite (w : Word) (s : State) : Host.Outcome State Fault Refusal :=
  match decode w with
  | .ok i => exec i s
  | .error _ => .next (illegalCommand s)

/-- An admitted read: the value goes back to the host, nothing else changes (43_engine_commands.md R198). -/
def hostRead (r : Reg) (s : State) : State :=
  { s with readBack := s.readReg r :: s.readBack }

/-- An admitted write (43_engine_commands.md R190, R199). -/
def hostWrite (r : Reg) (w : Word) (s : State) : Host.Outcome State Fault Refusal :=
  match r with
  | .cmd => cmdWrite w s
  | _ => .next (s.writeReg w r)

/-- One bus access (20_memory.md R54, R55; 43_engine_commands.md R200). -/
def busAccess (a : Access) (s : State) : Host.Outcome State Fault Refusal :=
  match a.admitted, a.kind with
  | some r, .read => .next (hostRead r s)
  | some r, .write w => hostWrite r w s
  | _, _ => .fault (.busFault a.off a.width)

/-- A read of which the program requires `(v & mask) == value` (30_encoding.md R77, log 11). -/
def readRequiring (r : Reg) (mask value : Word) (s : State) : State :=
  { hostRead r s with reqMet := s.reqMet && (s.readReg r &&& mask == value) }

/-- One poll of `WAIT` (30_encoding.md R78): a read of STATUS, repeated while BUSY reads 1 (log 11). -/
def pollStatus (s : State) : State :=
  if (s.readReg .status).getLsbD 0 then hostRead .status { s with pending := .wait :: s.pending }
  else hostRead .status s

/-- One host access has passed: a command in flight is that much nearer to its completion (log 2). -/
def State.tick (s : State) : State :=
  match s.phase with
  | .run => { s with due := s.due - 1 }
  | .idle => s

/-- One action of the host, already taken from `pending`. -/
def hostAction (h : HostAction) (s : State) : Host.Outcome State Fault Refusal :=
  match h with
  | .bus a => busAccess a s.tick
  | .rdRequire r mask value => .next (readRequiring r mask value s.tick)
  | .wait => .next (pollStatus s.tick)
  | .reset => .next s.applyReset

/-- Completion is the next step: a command is in flight, and its LATENCY has passed or the host has nothing more
to do (43_engine_commands.md R196, 70_reset_and_hazards.md R267, log 2). -/
def engineTurn (s : State) : Bool :=
  s.phase == .run && (s.due == 0 || s.pending.isEmpty)

/-- The host's step: its next action, or none, in which case an idle block stays as it is (20_memory.md R65). -/
def hostTurn (s : State) : Host.Outcome State Fault Refusal :=
  match s.pending with
  | [] => .next s
  | h :: rest => hostAction h { s with pending := rest }

/-- `WR <reg>, <imm32>` (30_encoding.md R77). -/
def wr (r : Reg) (w : Word) : HostAction :=
  .bus { off := r.offset, width := 32, kind := .write w }

/-- `RD <reg>` (30_encoding.md R77). -/
def rd (r : Reg) : HostAction :=
  .bus { off := r.offset, width := 32, kind := .read }

/-- `ENC`, `DEC`, `CLR` and `NOP` (30_encoding.md R78): a write of the command's word to CMD. -/
def command (i : Instr) : HostAction :=
  wr .cmd (encode i)

/-- `SETKEY k` (30_encoding.md R78). -/
def setKey (k : Bits 56) : List HostAction :=
  [wr .keyHi (keyHiWordOf k), wr .keyLo (keyLoWordOf k)]

/-- `SETBLK b` (30_encoding.md R78). -/
def setBlk (b : Bits 64) : List HostAction :=
  [wr .dinHi (hiWordOf b), wr .dinLo (loWordOf b)]

/-- `GETOUT` (30_encoding.md R78). -/
def getOut : List HostAction :=
  [rd .doutHi, rd .doutLo]

/-- The offset in the window of an address, if the block decodes it (20_memory.md R50, log 3). -/
def windowOffset (addr : Nat) : Option (Fin 32) :=
  if Config.base ≤ addr ∧ addr < Config.base + 32 then some (Fin.ofNat 32 (addr - Config.base)) else none

/-- A bus master issues an access at an absolute address: one in the window joins the host's stream, and one outside
it is not this block's (20_memory.md R50, R64). -/
def issueAt (addr width : Nat) (kind : AccessKind) (s : State) : State :=
  match windowOffset addr with
  | some off => { s with pending := s.pending ++ [.bus { off, width, kind }] }
  | none => s

/-- `s` with the word of an instruction next in line to be written to CMD (log 1). A command in flight then has at
least one access to go, so that the next step is the host's. -/
def State.withNextCommand (s : State) (w : Word) : State :=
  { s with
    pending := wr .cmd w :: s.pending
    due := match s.phase with
      | .run => max s.due 1
      | .idle => s.due }

end Sys2Proof.Machine
end

