-- ==== Sys2Proof/Machine/Step.lean ====
section
/-! DEFINITION. One step of the machine: the engine's completion or the host's next action (00_scope.md R18). -/

namespace Sys2Proof.Machine

/-- One step. Completion and host actions never fall together; completion stands between two accesses
(20_memory.md R59, 60_exceptions.md R227). -/
def step (s : State) : Host.Outcome State Fault Refusal :=
  if engineTurn s then .next s.complete else hostTurn s

/-- `s` with the instruction whose bits are `w` as the host's next write to CMD: the block fetches nothing
(10_state.md R40), a command word is run at its write (log 1). -/
def State.withFetchWord (s : State) (nbits w : Nat) : State :=
  s.withNextCommand (BitVec.ofNat 32 (w % 2 ^ nbits))

end Sys2Proof.Machine
end

