-- ==== Sys2Proof/Machine/BitLists.lean ====
section
/-! DEFINITION. The functional core on untyped bit lists (43_engine_commands.md R184, 60_exceptions.md R220,
00_scope.md R15): every function first checks the length of each argument, and gives no output on a mismatch.
No command reaches these forms; the registers fix the widths (R184). -/

namespace Sys2Proof.Machine

/-- Why a call of the functional core gives no output. -/
inductive CoreError where
  /-- An argument of the wrong length (60_exceptions.md R220). Safe: the spec's own outcome. -/
  | preconditionViolation
  /-- A table with an entry outside the input (40_bit_sequences_and_tables.md R102, log 15). Safe. -/
  | malformedTable
  /-- apply_inverse on a table that is no permutation (40_bit_sequences_and_tables.md R105). Safe. -/
  | nonBijectiveTable
  deriving DecidableEq, Repr

/-- The typed sequence of a bit list. -/
def ofList (n : Nat) (xs : List Bool) : Bits n :=
  build n fun i => xs.getD i false

/-- The bit list of a typed sequence, element 0 first. -/
def toList {n : Nat} (x : Bits n) : List Bool :=
  (List.range n).map x.getMsbD

/-- `value`, if the argument lengths are right (60_exceptions.md R220). -/
def requiring {α : Type} (lengthsOk : Bool) (value : α) : Except CoreError α :=
  if lengthsOk then .ok value else .error .preconditionViolation

/-- apply (R102) on a list of length `A`. -/
def applyL {B : Nat} (A : Nat) (x : List Bool) (t : Vector Nat B) : Except CoreError (List Bool) :=
  if inRange A t then requiring (x.length == A) (toList (apply (ofList A x) t))
  else .error .malformedTable

/-- apply_inverse (R104, R105). -/
def applyInverseL {B : Nat} (y : List Bool) (t : Vector Nat B) : Except CoreError (List Bool) :=
  if y.length == B then
    match applyInverse (ofList B y) t with
    | some x => .ok (toList x)
    | none => .error .nonBijectiveTable
  else .error .preconditionViolation

/-- rotl (R106) of a 28-bit half. R106 takes `s` below 28: that a longer rotation is accepted, and is its remainder modulo 28,
is a DESIGN CHOICE (log 20). -/
def rotlL (h : List Bool) (s : Nat) : Except CoreError (List Bool) :=
  requiring (h.length == 28) (toList (rotl (ofList 28 h) s))

/-- xor (R107) of two lists of one length. R107 types the operands with 48 or 32 bits and names only unequal lengths a
violation: that any one length is accepted is a DESIGN CHOICE (log 15). -/
def xorL (a b : List Bool) : Except CoreError (List Bool) :=
  requiring (a.length == b.length) (List.zipWith Bool.xor a b)

/-- chunk (R108). -/
def chunkL (x : List Bool) : Except CoreError (List (List Bool)) :=
  requiring (x.length == 48) ((List.finRange 8).map fun i => toList (chunk (ofList 48 x) i))

/-- sbox_lookup (R109); of an entry above 15 the low four bits (log 21). -/
def sboxLookupL (T : Tables) (i : Fin 8) (c : List Bool) : Except CoreError (List Bool) :=
  requiring (c.length == 6) (toList (sboxLookup T i (ofList 6 c)))

/-- substitute (R110). -/
def substituteL (T : Tables) (x : List Bool) : Except CoreError (List Bool) :=
  requiring (x.length == 48) (toList (substitute T (ofList 48 x)))

/-- pad (R141). -/
def padL (raw : List Bool) : Except CoreError (List Bool) :=
  requiring (raw.length == 56) (toList (pad (ofList 56 raw)))

/-- preprocess (R142). -/
def preprocessL (T : Tables) (raw : List Bool) : Except CoreError (List Bool) :=
  requiring (raw.length == 56) (toList (preprocess T (ofList 56 raw)))

/-- advance (R143). -/
def advanceL (seed : List Bool) (r : Fin 16) : Except CoreError (List Bool) :=
  requiring (seed.length == 56) (toList (advance (ofList 56 seed) r))

/-- compress (R144). -/
def compressL (T : Tables) (seed : List Bool) : Except CoreError (List Bool) :=
  requiring (seed.length == 56) (toList (compress T (ofList 56 seed)))

/-- deriveAllRoundKeys (R145). -/
def deriveAllRoundKeysL (T : Tables) (raw : List Bool) : Except CoreError (List (List Bool)) :=
  requiring (raw.length == 56) ((deriveAllRoundKeys T (ofList 56 raw)).toList.map toList)

/-- feistel (R160). -/
def feistelL (T : Tables) (half rk : List Bool) : Except CoreError (List Bool) :=
  requiring (half.length == 32 && rk.length == 48) (toList (feistel T (ofList 32 half) (ofList 48 rk)))

/-- round_fwd (R165). -/
def roundFwdL (T : Tables) (l r k : List Bool) : Except CoreError (List Bool × List Bool) :=
  let lr := roundFwd T (ofList 32 l, ofList 32 r) (ofList 48 k)
  requiring (l.length == 32 && r.length == 32 && k.length == 48) (toList lr.1, toList lr.2)

/-- round_bwd (R166). -/
def roundBwdL (T : Tables) (l r k : List Bool) : Except CoreError (List Bool × List Bool) :=
  let lr := roundBwd T (ofList 32 l, ofList 32 r) (ofList 48 k)
  requiring (l.length == 32 && r.length == 32 && k.length == 48) (toList lr.1, toList lr.2)

/-- EncryptL (R184). -/
def encryptL (T : Tables) (b k : List Bool) : Except CoreError (Bits 64) :=
  requiring (b.length == 64 && k.length == 56) (encrypt T (ofList 64 b) (ofList 56 k))

/-- DecryptL (R184). -/
def decryptL (T : Tables) (c k : List Bool) : Except CoreError (Bits 64) :=
  requiring (c.length == 64 && k.length == 56) (decrypt T (ofList 64 c) (ofList 56 k))

end Sys2Proof.Machine
end

