-- ==== Sys2Proof/Machine/DesRelation.lean ====
section
/-! DEFINITION. Textbook DES over the same tables, only to state the cross-checks of 41_key_schedule.md R150 and
43_engine_commands.md R183. No part of the machine calls it. PRESUMED: the spec marks both relations as general
knowledge (93_implementation_defined.md G9, G10; log 18). -/

namespace Sys2Proof.Machine

/-- A 64-bit DES key without its eight parity bits, the last bit of each byte (41_key_schedule.md R150). -/
def stripParity (k64 : Bits 64) : Bits 56 :=
  build 56 fun i => k64.getMsbD (8 * (i / 7) + i % 7)

/-- DES's K1..K16: PC-1 is applied to the 64-bit key itself. -/
def desRoundKeys (T : Tables) (k64 : Bits 64) : Vector (Bits 48) 16 :=
  Vector.ofFn fun r => compress T (seedAfter (apply k64 T.pc1) (rounds.take (r.val + 1)))

/-- The halves of a block exchanged (43_engine_commands.md R183). -/
def swap64 (x : Bits 64) : Bits 64 :=
  slice 32 32 x ++ slice 0 32 x

/-- Standard DES encryption: the last round's halves are exchanged before the final permutation. -/
def desEncrypt (T : Tables) (b k64 : Bits 64) : Bits 64 :=
  let rk := desRoundKeys T k64
  let lr := rounds.foldl (fun lr r => roundFwd T lr rk[r]) (splitHalves (apply b T.ip))
  apply (joinHalves (lr.2, lr.1)) T.fp

end Sys2Proof.Machine
end

