-- ==== Sys2Proof/Safety.lean ====
section
/-! DEFINITION. What counts as a good state, as the end of a run, and as the same view of the block. -/

namespace Sys2Proof.Machine

/-- The block invariant: what the status, the phase and the result registers say of each other
(10_state.md R30 to R35, R42, R48; 70_reset_and_hazards.md R260). -/
structure State.Inv (s : State) : Prop where
  /-- PHASE = RUN if and only if STATUS.BUSY = 1 (R30, R42). -/
  busy_iff_run : s.status.busy = true ↔ s.phase = .run
  /-- While BUSY = 1, DONE = 0 and ERR = 0 (R30). -/
  run_quiet : s.phase = .run → s.status.done = false ∧ s.status.err = false
  /-- A command in flight was accepted with all operands written, and nothing but CLEAR and reset unwrites one (R35). -/
  run_valid : s.phase = .run → s.status.allValid = true
  /-- DOUT reads 0 from acceptance until completion (R260). -/
  run_dout : s.phase = .run → s.doutHi = 0 ∧ s.doutLo = 0
  /-- DONE and ERR are never both 1 (R31). -/
  done_or_err : ¬ (s.status.done = true ∧ s.status.err = true)
  /-- DONE = 1 means DOUT holds the complete result of the last accepted command (R31). -/
  done_result : s.status.done = true → s.doutSeq = s.result
  /-- ERR = 0 implies ERRCODE = 0 (R32). -/
  no_err_code : s.status.err = false → s.status.errCode = 0
  /-- ERR = 1 comes with ERRCODE 1 or 2 (R32, R34). -/
  err_code : s.status.err = true → s.status.errCode = preconditionCode ∨ s.status.errCode = illegalCode
  /-- After a PreconditionViolation DOUT reads 0 (60_exceptions.md R221). -/
  precondition_dout : s.status.errCode = preconditionCode → s.doutHi = 0 ∧ s.doutLo = 0
  /-- An operand register not written since reset or CLEAR is zero (R47, R48; 43_engine_commands.md R194). -/
  unwritten_zero :
    (s.status.kvHi = false → s.keyHi = 0) ∧ (s.status.kvLo = false → s.keyLo = 0) ∧
      (s.status.dvHi = false → s.dinHi = 0) ∧ (s.status.dvLo = false → s.dinLo = 0)

/-- The final state of the host's program, if its last action is performed within `k` steps and no step faults: the
state right then (43_engine_commands.md R202). A completion that is still to come belongs to no host program. -/
def programEnd : Nat → State → Option State
  | 0, s => if s.pending.isEmpty then some s else none
  | k + 1, s =>
    if s.pending.isEmpty then some s
    else match step s with
      | .next t => programEnd k t
      | .fault _ => none
      | .refused _ => none

/-- A host program's final state is a successful end: no command is in flight. That no BusFault occurred is that there
is a final state at all (43_engine_commands.md R202). R202 says "only if"; that nothing more is asked, and so that a read's
requirement that was not met (30_encoding.md R77, `reqMet`) leaves the end successful, is a DESIGN CHOICE (log 19). -/
def State.successfulEnd (s : State) : Bool :=
  s.phase == .idle

/-- Two states that differ at most in what no access can read: the datapath's values, and LOP, LK, LB while idle
(10_state.md R42, R43). -/
def State.SameView (s t : State) : Prop :=
  t = { s with dp := t.dp, lop := t.lop, lk := t.lk, lb := t.lb } ∧
    (s.phase = .run → t.lop = s.lop ∧ t.lk = s.lk ∧ t.lb = s.lb)

/-- An action that neither resets the block nor faults. -/
def HostAction.harmless : HostAction → Bool
  | .bus a => a.admitted.isSome
  | .rdRequire _ _ _ => true
  | .wait => true
  | .reset => false

end Sys2Proof.Machine
end

