-- ==== Sys2Proof/Certificates/Slice0/Obligations.lean ====
section
/-! DEFINITION. The statements for the provers, in the order of the spec's files: encoding, state and reset, the bus,
the commands, the engine, whole-machine rules, the cipher. OBLIGATIONS.json lists them. -/

open Sys2Proof Sys2Proof.Machine

/-! ## Encoding -/

/-- R73: a word selects a command exactly when `w & mask == match`, and exactly four words are legal. -/
def Obligations.DecodeFollowsCommandMap : Prop :=
  (∀ w : Word,
    (decode w = .ok .nop ↔ w &&& 0xFFFFFFFF = 0x00000000) ∧
    (decode w = .ok .encrypt ↔ w &&& 0xFFFFFFFF = 0x00000001) ∧
    (decode w = .ok .decrypt ↔ w &&& 0xFFFFFFFF = 0x00000002) ∧
    (decode w = .ok .clear ↔ w &&& 0xFFFFFFFF = 0x00000003) ∧
    ((∃ e, decode w = .error e) ↔ w ∉ [0x00000000, 0x00000001, 0x00000002, 0x00000003])) ∧
  ∀ (w : Word) (i : Instr), decode w = .ok i ↔ ∃ r ∈ commandMap, r.instr = i ∧ r.selects w = true

/-- R72, R74: which words are illegal, by the number the word is, and under which name the decoder rejects them. -/
def Obligations.IllegalWordsByReason : Prop :=
  ∀ w : Word,
    (decode w = .error .reservedBits ↔ 16 ≤ w.toNat) ∧
    (decode w = .error .reservedOp ↔ 4 ≤ w.toNat ∧ w.toNat < 16)

/-- Decoding an encoded command gives it back, also as the table numbers its bits, and a decoded word is the
command's own encoding: each command has one word and each legal word one command. -/
def Obligations.DecodeEncodeAgree : Prop :=
  (∀ i : Instr, i.wf = true → decode (encode i) = .ok i ∧ decodeTableWord 32 (encode i).toNat = some i) ∧
  ∀ (w : Word) (i : Instr), decode w = .ok i → encode i = w

/-- The four words of spec/opcode_table.json, bit by bit, and four illegal neighbours (95_test_vectors.md section 7). -/
def Obligations.DecodeOfSpecWords : Prop :=
  decode 0b00000000000000000000000000000000 = .ok .nop ∧
  decode 0b00000000000000000000000000000001 = .ok .encrypt ∧
  decode 0b00000000000000000000000000000010 = .ok .decrypt ∧
  decode 0b00000000000000000000000000000011 = .ok .clear ∧
  decode 0x00000004 = .error .reservedOp ∧ decode 0x0000000F = .error .reservedOp ∧
  decode 0x00000011 = .error .reservedBits ∧ decode 0x80000001 = .error .reservedBits

/-- R70: writing the words of a key or a block leaves exactly that key or block as the operand, and the words
of the operand are the words read back. -/
def Obligations.OperandWordsCarryKeyAndBlock : Prop :=
  (∀ (s : State) (k : Bits 56),
    ((s.writeReg (keyHiWordOf k) .keyHi).writeReg (keyLoWordOf k) .keyLo).keySeq = k) ∧
  (∀ (s : State) (b : Bits 64),
    ((s.writeReg (hiWordOf b) .dinHi).writeReg (loWordOf b) .dinLo).blkSeq = b) ∧
  ∀ s : State,
    keyHiWordOf s.keySeq = s.readReg .keyHi ∧ keyLoWordOf s.keySeq = s.readReg .keyLo ∧
    hiWordOf s.blkSeq = s.readReg .dinHi ∧ loWordOf s.blkSeq = s.readReg .dinLo

/-- R37, R38, R39: sequence element j of a 32-element slice is word bit 31-j, for the key, the block and the result. -/
def Obligations.SequenceElementsAreWordBits : Prop :=
  ∀ (s : State) (out : Bits 64) (j : Nat), j < 32 →
    s.keySeq.getMsbD j = (s.readReg .keyHi).getLsbD (31 - j) ∧
    (j < 24 → s.keySeq.getMsbD (32 + j) = (s.readReg .keyLo).getLsbD (31 - j)) ∧
    s.blkSeq.getMsbD j = (s.readReg .dinHi).getLsbD (31 - j) ∧
    s.blkSeq.getMsbD (32 + j) = (s.readReg .dinLo).getLsbD (31 - j) ∧
    out.getMsbD j = ((s.setDout out).readReg .doutHi).getLsbD (31 - j) ∧
    out.getMsbD (32 + j) = ((s.setDout out).readReg .doutLo).getLsbD (31 - j)

/-- R76: the STATUS word, bit by bit. -/
def Obligations.StatusWordLayout : Prop :=
  (∀ f : Status,
    f.toWord.getLsbD 0 = f.busy ∧ f.toWord.getLsbD 1 = f.done ∧ f.toWord.getLsbD 2 = f.err ∧
    f.toWord.getLsbD 3 = f.coll ∧ f.toWord.extractLsb' 4 4 = f.errCode ∧
    f.toWord.getLsbD 8 = f.kvHi ∧ f.toWord.getLsbD 9 = f.kvLo ∧
    f.toWord.getLsbD 10 = f.dvHi ∧ f.toWord.getLsbD 11 = f.dvLo ∧
    f.toWord.extractLsb' 12 20 = 0) ∧
  (let valid : Status := { Status.zero with kvHi := true, kvLo := true, dvHi := true, dvLo := true }
   { valid with busy := true }.toWord = 0x00000F01 ∧ { valid with done := true }.toWord = 0x00000F02 ∧
   valid.toWord = 0x00000F00 ∧ Status.zero.toWord = 0x00000000 ∧
   { Status.zero with err := true, errCode := 1 }.toWord = 0x00000014 ∧
   { Status.zero with err := true, errCode := 2 }.toWord = 0x00000024)

/-- R36: the reserved fields read 0 in every state. -/
def Obligations.ReservedFieldsReadZero : Prop :=
  ∀ s : State,
    (s.readReg .keyLo).extractLsb' 0 8 = 0 ∧ s.readReg .cmd = 0 ∧
    (s.readReg .status).extractLsb' 12 20 = 0

/-! ## Reset -/

/-- R47: what reset leaves, of the state the spec gives a value. -/
def Obligations.ResetStateValues : Prop :=
  (∀ r : Reg, State.reset.readReg r = 0) ∧ State.reset.phase = .idle ∧
  State.reset.lop = .enc ∧ State.reset.lk = 0 ∧ State.reset.lb = 0

/-- R250, R251: the reset input puts the block in its reset state in one step, from any state, and a command in
flight is gone: no completion is enabled after it. -/
def Obligations.ResetInputAbortsAndResets : Prop :=
  ∀ (s : State) (rest : List HostAction), s.pending = .reset :: rest → engineTurn s = false →
    ∃ t, step s = .next t ∧ (∀ r : Reg, t.readReg r = 0) ∧ t.phase = .idle ∧ t.lop = .enc ∧ t.lk = 0 ∧ t.lb = 0 ∧
      engineTurn t = false

/-- The reset input leaves the host's side alone: what it has still to do, what it has read, whether its requirements
held, and the command count. The model's choice, log 13. -/
def Obligations.ResetKeepsHostView : Prop :=
  ∀ (s : State) (rest : List HostAction), s.pending = .reset :: rest → engineTurn s = false →
    ∃ t, step s = .next t ∧ t.pending = rest ∧ t.readBack = s.readBack ∧ t.reqMet = s.reqMet ∧ t.serial = s.serial

/-! ## The bus -/

/-- R198: an admitted read hands back the register's value and changes nothing else; DOUT reads 0 while a command
is in flight. -/
def Obligations.ReadsReturnRegisters : Prop :=
  (∀ (s : State) (off : Fin 32) (v : Word),
    (off, v) ∈ [((0x00 : Fin 32), s.keyHi), (0x04, s.keyLo.setWidth 32 <<< 8), (0x08, s.dinHi), (0x0C, s.dinLo),
      (0x10, s.doutHi), (0x14, s.doutLo), (0x18, 0x00000000), (0x1C, s.status.toWord)] →
    busAccess { off, width := 32, kind := .read } s = .next { s with readBack := v :: s.readBack }) ∧
  (∀ s : State, (s.keyLo.setWidth 32 <<< 8).extractLsb' 0 8 = 0 ∧ s.status.toWord.extractLsb' 12 20 = 0) ∧
  ∀ s : State, s.Inv → s.status.busy = true → s.readReg .doutHi = 0 ∧ s.readReg .doutLo = 0

/-- R199: an admitted write to a register other than CMD, in any phase. -/
def Obligations.WritesStoreAndSetValidFlag : Prop :=
  (∀ (s : State) (w : Word),
    busAccess { off := 0x00, width := 32, kind := .write w } s =
      .next { s with keyHi := w, status := { s.status with kvHi := true } } ∧
    (∃ k : Bits 24, k ++ (0 : BitVec 8) = w &&& 0xFFFFFF00 ∧
      busAccess { off := 0x04, width := 32, kind := .write w } s =
        .next { s with keyLo := k, status := { s.status with kvLo := true } }) ∧
    busAccess { off := 0x08, width := 32, kind := .write w } s =
      .next { s with dinHi := w, status := { s.status with dvHi := true } } ∧
    busAccess { off := 0x0C, width := 32, kind := .write w } s =
      .next { s with dinLo := w, status := { s.status with dvLo := true } } ∧
    busAccess { off := 0x10, width := 32, kind := .write w } s = .next s ∧
    busAccess { off := 0x14, width := 32, kind := .write w } s = .next s ∧
    busAccess { off := 0x1C, width := 32, kind := .write w } s = .next s) ∧
  (State.reset.writeReg 0x01234567 .dinHi).readReg .status = 0x00000400

/-- R22 to R25, R57: a bus write to a register other than CMD, and what is to be read after it: the written word (KEY_LO
without its low byte), nothing new in a register that ignores writes, where the whole state stays, every other register but
STATUS as before; and writing twice is writing once. A write to CMD is not so: ENCRYPT written twice starts a command and
then collides with it. -/
def Obligations.WriteThenReadBack : Prop :=
  (∀ (s : State) (w : Word) (r : Reg), r ≠ .cmd →
    ∃ t, busAccess { off := r.offset, width := 32, kind := .write w } s = .next t ∧
      t.readReg r =
        (match r with
          | .keyHi => w
          | .keyLo => w &&& 0xFFFFFF00
          | .dinHi => w
          | .dinLo => w
          | _ => s.readReg r) ∧
      (r = .doutHi ∨ r = .doutLo ∨ r = .status → t = s) ∧
      (∀ q : Reg, q ≠ r → q ≠ .status → t.readReg q = s.readReg q) ∧
      busAccess { off := r.offset, width := 32, kind := .write w } t = .next t) ∧
  ∀ s : State, s.phase = .idle → s.status.allValid = true → s.status.coll = false →
    ∃ t u, busAccess { off := 0x18, width := 32, kind := .write 0x00000001 } s = .next t ∧ t.status.coll = false ∧
      busAccess { off := 0x18, width := 32, kind := .write 0x00000001 } t = .next u ∧ u.status.coll = true

/-- R54, R55, R200, R224: an access faults exactly when it is not a 32-bit read or write at a multiple of 4, with its
offset and width; an admitted one goes on, and none is refused. That the answer to an instruction fetch is this BusFault too
is DEDUCED (log 8), and so is that widths other than the 8, 16 and 64 the spec names fault alike (log 9). -/
def Obligations.BusFaultExactlyWhenNotAdmitted : Prop :=
  ∀ (a : Access) (s : State),
    ((a.width ≠ 32 ∨ a.off.val % 4 ≠ 0 ∨ a.kind = .fetch) →
      busAccess a s = .fault (.busFault a.off a.width)) ∧
    (¬ (a.width ≠ 32 ∨ a.off.val % 4 ≠ 0 ∨ a.kind = .fetch) → ∃ t, busAccess a s = .next t)

/-- R50: the block decodes the 32 bytes at `BASE`, a multiple of 32, and nothing else; an access at `BASE + off` joins the
host's stream at offset `off`. -/
def Obligations.WindowDecodesBase : Prop :=
  Config.base % 32 = 0 ∧
  (∀ (off : Fin 32) (width : Nat) (kind : AccessKind) (s : State),
    issueAt (Config.base + off.val) width kind s =
      { s with pending := s.pending ++ [.bus { off, width, kind }] }) ∧
  ∀ (addr width : Nat) (kind : AccessKind) (s : State),
    addr < Config.base ∨ Config.base + 32 ≤ addr → issueAt addr width kind s = s

/-! ## Commands -/

/-- R191: NOP has no effect, idle or busy. -/
def Obligations.NopHasNoEffect : Prop :=
  ∀ s : State, exec .nop s = .next s

/-- R192: ENCRYPT decoded while idle. With all four operands written it latches them and starts the engine, whose completion
then computes Encrypt of them; else it records PreconditionViolation. DOUT, DONE, ERR and ERRCODE are cleared first either
way. The model's own `serial` and `due` take some value (log 2). -/
def Obligations.EncryptStartsOrRefuses : Prop :=
  ∀ s : State, s.phase = .idle →
    (s.status.kvHi = true ∧ s.status.kvLo = true ∧ s.status.dvHi = true ∧ s.status.dvLo = true →
      ∃ serial due, ∃ t : State, exec .encrypt s = .next t ∧
        t = { s with
          doutHi := 0, doutLo := 0, lk := s.keyHi ++ s.keyLo, lb := s.dinHi ++ s.dinLo, lop := .enc, phase := .run,
          status := { s.status with busy := true, done := false, err := false, errCode := 0 }, serial, due } ∧
        t.result = encrypt tables (s.dinHi ++ s.dinLo) (s.keyHi ++ s.keyLo)) ∧
    (¬ (s.status.kvHi = true ∧ s.status.kvLo = true ∧ s.status.dvHi = true ∧ s.status.dvLo = true) →
      exec .encrypt s = .next { s with
        doutHi := 0, doutLo := 0, status := { s.status with done := false, err := true, errCode := 1 } })

/-- R193: DECRYPT decoded while idle: as ENCRYPT, with LOP = DEC, so that completion computes Decrypt. -/
def Obligations.DecryptStartsOrRefuses : Prop :=
  ∀ s : State, s.phase = .idle →
    (s.status.kvHi = true ∧ s.status.kvLo = true ∧ s.status.dvHi = true ∧ s.status.dvLo = true →
      ∃ serial due, ∃ t : State, exec .decrypt s = .next t ∧
        t = { s with
          doutHi := 0, doutLo := 0, lk := s.keyHi ++ s.keyLo, lb := s.dinHi ++ s.dinLo, lop := .dec, phase := .run,
          status := { s.status with busy := true, done := false, err := false, errCode := 0 }, serial, due } ∧
        t.result = decrypt tables (s.dinHi ++ s.dinLo) (s.keyHi ++ s.keyLo)) ∧
    (¬ (s.status.kvHi = true ∧ s.status.kvLo = true ∧ s.status.dvHi = true ∧ s.status.dvLo = true) →
      exec .decrypt s = .next { s with
        doutHi := 0, doutLo := 0, status := { s.status with done := false, err := true, errCode := 1 } })

/-- R203, R221: the refusal by PreconditionViolation as the host sees it: ERR = 1 with code 1, DONE = 0, BUSY = 0,
DOUT = 0, nothing latched, the engine not started. BUSY = 0 rests on the block invariant. -/
def Obligations.PreconditionViolationRecorded : Prop :=
  (∀ (i : Instr) (s : State), (i = .encrypt ∨ i = .decrypt) → s.phase = .idle → s.status.allValid = false → s.Inv →
    ∃ t, exec i s = .next t ∧
      t.status.err = true ∧ t.status.errCode = 1 ∧ t.status.done = false ∧ t.status.busy = false ∧
      t.status.kvHi = s.status.kvHi ∧ t.status.kvLo = s.status.kvLo ∧
      t.status.dvHi = s.status.dvHi ∧ t.status.dvLo = s.status.dvLo ∧
      t.readReg .doutHi = 0 ∧ t.readReg .doutLo = 0 ∧
      t.lk = s.lk ∧ t.lb = s.lb ∧ t.lop = s.lop ∧ t.phase = .idle) ∧
  (∃ t, cmdWrite 0x00000001 State.reset = .next t ∧ t.readReg .status = 0x00000014)

/-- R194: CLEAR while idle returns everything of the block to its reset value; while busy it is dropped; no
other command clears COLL. -/
def Obligations.ClearResetsIdleBlock : Prop :=
  (∀ s : State, s.phase = .idle →
    exec .clear s = .next { s with
      keyHi := 0, keyLo := 0, dinHi := 0, dinLo := 0, doutHi := 0, doutLo := 0,
      status := Status.zero, lk := 0, lb := 0, lop := .enc }) ∧
  (∀ s : State, s.phase = .run →
    exec .clear s = .next { s with status := { s.status with coll := true } }) ∧
  ∀ (i : Instr) (s t : State), exec i s = .next t → s.status.coll = true → t.status.coll = false → i = .clear

/-- R195, R222: an illegal word written while idle sets ERR with code 2, clears DONE and changes nothing else. -/
def Obligations.IllegalWordRecorded : Prop :=
  (∀ (w : Word) (e : DecodeError) (s : State), decode w = .error e → s.phase = .idle →
    cmdWrite w s = .next { s with status := { s.status with done := false, err := true, errCode := 2 } }) ∧
  ∃ t, cmdWrite 0x00000004 State.reset = .next t ∧ t.readReg .status = 0x00000024

/-- R201, R225: a word written while a command is in flight: zero does nothing, any other word only sets COLL. -/
def Obligations.BusyWordsOnlyCollide : Prop :=
  ∀ (w : Word) (s : State), s.phase = .run →
    cmdWrite w s = .next (if w = 0 then s else { s with status := { s.status with coll := true } })

/-- R190 (and the order of R227): the checks of one CMD write, by the fields of the word. -/
def Obligations.CmdWriteChecksInOrder : Prop :=
  ∀ (w : Word) (s : State),
    let out := busAccess { off := 0x18, width := 32, kind := .write w } s
    (s.phase = .run →
      out = .next (if w = 0 then s else { s with status := { s.status with coll := true } })) ∧
    (s.phase = .idle →
      ((w.extractLsb' 4 28 ≠ 0 ∨ 4 ≤ (w.extractLsb' 0 4).toNat) →
        out = .next { s with status := { s.status with done := false, err := true, errCode := 2 } }) ∧
      (¬ (w.extractLsb' 4 28 ≠ 0 ∨ 4 ≤ (w.extractLsb' 0 4).toNat) →
        ((w.extractLsb' 0 4).toNat = 0 → out = .next s) ∧
        ((w.extractLsb' 0 4).toNat = 1 → out = exec .encrypt s) ∧
        ((w.extractLsb' 0 4).toNat = 2 → out = exec .decrypt s) ∧
        ((w.extractLsb' 0 4).toNat = 3 → out = exec .clear s) ∧
        ((w.extractLsb' 0 4).toNat = 1 ∨ (w.extractLsb' 0 4).toNat = 2 → s.status.allValid = false →
          out = .next { s with
            doutHi := 0, doutLo := 0, status := { s.status with done := false, err := true, errCode := 1 } })))

/-- The frame of the four commands, in every phase: what a command leaves unchanged. The host's fields and the datapath
always; the operand registers and valid flags but for CLEAR; COLL but for CLEAR and a word dropped while busy; while
busy everything but COLL; LOP, LK and LB but for an acceptance and CLEAR. -/
def Obligations.CommandFrames : Prop :=
  ∀ (i : Instr) (s t : State), exec i s = .next t →
    (t.pending = s.pending ∧ t.readBack = s.readBack ∧ t.reqMet = s.reqMet ∧ t.dp = s.dp) ∧
    (i = .nop → t = s) ∧
    (s.phase = .run → t = { s with status := { s.status with coll := t.status.coll } }) ∧
    (i ≠ .clear →
      (∀ r : Reg, r ≠ .doutHi → r ≠ .doutLo → r ≠ .status → t.readReg r = s.readReg r) ∧
      t.status.kvHi = s.status.kvHi ∧ t.status.kvLo = s.status.kvLo ∧
      t.status.dvHi = s.status.dvHi ∧ t.status.dvLo = s.status.dvLo ∧
      (s.phase = .idle → t.status.coll = s.status.coll) ∧
      (t.phase = s.phase → t.lop = s.lop ∧ t.lk = s.lk ∧ t.lb = s.lb ∧ t.serial = s.serial ∧ t.due = s.due)) ∧
    (i = .clear → t.phase = s.phase ∧ t.serial = s.serial ∧ t.due = s.due)

/-! ## The engine -/

/-- Whose turn it is, which the spec leaves open between acceptance and completion: the engine's in PHASE RUN once
LATENCY has passed or the host has nothing more to do. The model's choice, log 2. -/
def Obligations.CompletionTurn : Prop :=
  ∀ s : State, engineTurn s = true ↔ s.phase = .run ∧ (s.due = 0 ∨ s.pending = [])

/-- R196: completion is one step and can be the next one, for some value of the free LATENCY, exactly in PHASE RUN. It writes
the whole result, BUSY = 0 and DONE = 1; but for the hidden datapath values nothing else changes. -/
def Obligations.CompletionWritesResult : Prop :=
  (∀ s : State, (∃ due, engineTurn { s with due } = true) ↔ s.phase = .run) ∧
  ∀ s : State, engineTurn s = true → ∃ (out : Bits 64) (d : Datapath),
    (s.lop = .enc → out = encrypt tables s.lb s.lk) ∧ (s.lop = .dec → out = decrypt tables s.lb s.lk) ∧
    step s = .next { s with
      doutHi := slice 0 32 out, doutLo := slice 32 32 out,
      status := { s.status with busy := false, done := true }, phase := .idle, dp := d }

/-- R197, R145, R180, R181: the datapath, taking its reference sequence from any contents, fills the round-key file with the
derived round keys, brings the seed back to where it began (R146) and ends with the cipher's result. -/
def Obligations.DatapathComputesCipher : Prop :=
  ∀ (T : Tables) (op : CipherOp) (key : Bits 56) (block : Bits 64) (d : Datapath),
    (d.run T op key block).out T = cipher T op block key ∧
    (d.run T op key block).rk = deriveAllRoundKeys T key ∧
    (d.run T op key block).seed = preprocess T key

/-- R262: an operand write while a command is in flight does not change that command: writing and then completing
is completing and then writing. -/
def Obligations.OperandWriteCommutesWithCompletion : Prop :=
  ∀ (s : State) (w : Word) (r : Reg), (s.writeReg w r).complete = s.complete.writeReg w r

/-- R267, R270: every accepted command completes after at most `due` further host accesses, whatever they are, unless
one resets the block or ends the run with a BusFault; then DONE = 1 and DOUT holds the result of what was latched. -/
def Obligations.AcceptedCommandCompletes : Prop :=
  ∀ s : State, s.phase = .run → (∀ h ∈ s.pending, h.harmless = true) →
    ∃ k t, k ≤ s.due + 1 ∧ core.run k s = .next t ∧
      t.phase = .idle ∧ t.status.busy = false ∧ t.status.done = true ∧ t.doutSeq = s.result

/-- R78, R266: `WAIT` ends, with one poll more than the accesses still due at most and the completion between them; its last
read has BUSY = 0, and the host goes on with what follows. -/
def Obligations.WaitEnds : Prop :=
  ∀ (s : State) (rest : List HostAction), s.Inv → s.pending = .wait :: rest →
    ∃ k t v, k ≤ s.due + 2 ∧ core.run k s = .next t ∧ t.pending = rest ∧ t.phase = .idle ∧
      t.readBack.head? = some v ∧ v.getLsbD 0 = false

/-- R202, R267: a host program without a bus access that faults comes to its end whatever it does, and one that
waits last ends successfully. The stream is the model's choice, log 1; that completion comes within `due` accesses log 2; and
that a read's requirement that was not met leaves an end successful log 19. -/
def Obligations.EveryAdmittedProgramEnds : Prop :=
  ∀ s : State, s.Inv → (∀ h ∈ s.pending, h = .reset ∨ h.harmless = true) →
    ∃ k t, programEnd k s = some t ∧ t.Inv ∧
      ((∃ before, s.pending = before ++ [.wait]) → t.successfulEnd = true)

/-! ## Whole-machine rules -/

/-- The block invariant holds at reset. -/
def Obligations.ResetMeetsBlockInvariant : Prop :=
  State.reset.Inv

/-- Every step keeps the block invariant (10_state.md R30 to R32, R34, R42, R48; R221, R260). -/
def Obligations.StepKeepsBlockInvariant : Prop :=
  ∀ s t : State, s.Inv → step s = .next t → t.Inv

/-- A step stops only by a BusFault of the host's next access, when that access is not admitted; nothing is refused. -/
def Obligations.StepStopsOnlyByBusFault : Prop :=
  ∀ s : State,
    (∀ r, step s ≠ .refused r) ∧
    ∀ f, step s = .fault f → engineTurn s = false ∧
      ∃ a rest, s.pending = .bus a :: rest ∧ a.admitted = none ∧ f = .busFault a.off a.width

/-- When the host's next action writes to CMD a word that decodes to `i`, and no completion comes first, the step is
`exec i` (R190), with the action taken from the stream and one access counted against a command in flight. The stream is the
model's choice, log 1, and so are the turn and the counting, log 2. -/
def Obligations.StepRunsDecodedCommand : Prop :=
  ∀ (s : State) (w : Word) (i : Instr) (rest : List HostAction),
    s.pending = .bus { off := 0x18, width := 32, kind := .write w } :: rest → decode w = .ok i →
    engineTurn s = false →
    step s = exec i { s with pending := rest, due := if s.phase = .run then s.due - 1 else s.due }

/-- What `withFetchWord` places runs as the very next step: the command of the word, or an illegal word's effect, in a
state that is otherwise the same but for the access counted against a command in flight. `withFetchWord`, and that it leaves
such a command at least one access to go so that the host comes first, are the model's choice, log 1; how it reads the word's
bits is log 17, and the counting log 2. -/
def Obligations.FetchWordRunsNext : Prop :=
  (∀ (i : Instr) (s : State), s.phase = .idle → step (s.withFetchWord 32 (encode i).toNat) = exec i s) ∧
  (∀ (w : Word) (s : State), s.phase = .idle → step (s.withFetchWord 32 w.toNat) = cmdWrite w s) ∧
  ∀ (w : Word) (s : State), s.phase = .run →
    step (s.withFetchWord 32 w.toNat) = cmdWrite w { s with due := max s.due 1 - 1 }

/-- R65: a block with no command in flight and no host action to come stays as it is. -/
def Obligations.IdleBlockMakesNoMove : Prop :=
  ∀ s : State, s.phase = .idle → s.pending = [] → step s = .next s

/-- R33, R201: COLL is cleared only by CLEAR while idle and by reset, and set only by a dropped non-zero word. -/
def Obligations.CollisionFlagSticky : Prop :=
  ∀ s t : State, step s = .next t →
    (s.status.coll = true → t.status.coll = false →
      ∃ rest, s.pending = .reset :: rest ∨ (s.phase = .idle ∧ s.pending = command .clear :: rest)) ∧
    (s.status.coll = false → t.status.coll = true →
      s.phase = .run ∧ ∃ w rest, w ≠ 0 ∧ s.pending = wr .cmd w :: rest)

/-- R223: an error stays recorded, with its code, until a command or an illegal word is decoded while idle, or reset;
an illegal word puts its own code in its place. -/
def Obligations.ErrorPersistsUntilNextCommand : Prop :=
  ∀ s t : State, step s = .next t → s.status.err = true →
    (t.status.err = true ∧ t.status.errCode = s.status.errCode) ∨
    ∃ rest, s.pending = .reset :: rest ∨
      (s.phase = .idle ∧ ∃ i, i ≠ .nop ∧ s.pending = command i :: rest) ∨
      (s.phase = .idle ∧ t.status.err = true ∧ t.status.errCode = 2 ∧
        ∃ w e, decode w = .error e ∧ s.pending = wr .cmd w :: rest)

/-- R22 to R25, R35, R65: an operand register and its valid flag change only by a write to that register, which
stores the word and sets the flag, by CLEAR while idle, and by reset, which put both to zero. -/
def Obligations.OperandsChangeOnlyByWriteClearReset : Prop :=
  ∀ s t : State, step s = .next t →
    (∃ rest, s.pending = .reset :: rest ∨ (s.phase = .idle ∧ s.pending = command .clear :: rest)) ∨
    (∀ (r : Reg) (flag : Status → Bool),
      (r, flag) = (.keyHi, Status.kvHi) ∨ (r, flag) = (.keyLo, Status.kvLo) ∨
        (r, flag) = (.dinHi, Status.dvHi) ∨ (r, flag) = (.dinLo, Status.dvLo) →
      (t.readReg r = s.readReg r ∧ flag t.status = flag s.status) ∨
      ∃ w rest, s.pending = wr r w :: rest ∧ flag t.status = true ∧
        t.readReg r = if r = .keyLo then w &&& 0xFFFFFF00 else w)

/-- R26, R27, R263: DOUT changes only by completion, which writes the result, and to zero by ENCRYPT, DECRYPT or CLEAR
decoded while idle and by reset. -/
def Obligations.DoutChangesOnlyByBlock : Prop :=
  ∀ s t : State, step s = .next t →
    t.doutSeq = s.doutSeq ∨
    (engineTurn s = true ∧ t.doutSeq = s.result) ∨
    (t.doutSeq = 0 ∧ ∃ rest, s.pending = .reset :: rest ∨
      (s.phase = .idle ∧ ∃ i, i ≠ .nop ∧ s.pending = command i :: rest))

/-- R42, R202, R251: the engine starts only by an ENCRYPT or DECRYPT decoded while idle with every operand written, and
a command in flight ends only by its completion or by reset. -/
def Obligations.PhaseChangesOnlyByAcceptCompleteReset : Prop :=
  ∀ s t : State, step s = .next t →
    (s.phase = .idle → t.phase = .run → s.status.allValid = true ∧
      ∃ rest, s.pending = command .encrypt :: rest ∨ s.pending = command .decrypt :: rest) ∧
    (s.phase = .run → t.phase = .idle → engineTurn s = true ∨ ∃ rest, s.pending = .reset :: rest)

/-- R42, R43, R236: what no access can read never shows: from two states that differ at most in the datapath's values and,
while idle, in LOP, LK and LB, a step ends alike, in the same fault or in two such states again. -/
def Obligations.HiddenStateNeverShows : Prop :=
  ∀ s t : State, s.SameView t →
    (∀ s', step s = .next s' → ∃ t', step t = .next t' ∧ s'.SameView t') ∧
    ∀ f, step s = .fault f → step t = .fault f

/-! ## The constant tables and the primitives -/

/-- R129, R111: the tables pass the construction checks, and each of the 32 S-box rows is a permutation of 0..15. -/
def Obligations.TablesPassConstructionChecks : Prop :=
  tables.build = .ok tables ∧ shiftOk shiftTable = true ∧
  ∀ (i : Fin 8) (row : Fin 4) (v : Fin 16), ∃ col : Fin 16, tables.s[i][row][col] = v.val

/-- R115: FP is apply_inverse of the identity through IP, entry for entry, and with tables that pass the construction checks
the initial and the final permutation undo each other. -/
def Obligations.InitialAndFinalPermutationInverse : Prop :=
  invertTable tables.ip = some tables.fp ∧
  (∀ i : Fin 64, tables.fp.getD (tables.ip.getD i.val 0 - 1) 0 = i.val + 1) ∧
  ∀ T : Tables, T.wf = true → ∀ x : Bits 64,
    apply (apply x T.ip) T.fp = x ∧ apply (apply x T.fp) T.ip = x

/-- R104: apply_inverse is refused on a table that is no permutation, and on one that is it undoes apply, and apply it. -/
def Obligations.ApplyInverseUndoesApply : Prop :=
  (∀ (B : Nat) (t : Vector Nat B) (y : Bits B), isPermutation t = false → applyInverse y t = none) ∧
  ∀ (B : Nat) (t : Vector Nat B) (y : Bits B), isPermutation t = true →
    applyInverse (apply y t) t = some y ∧ ∃ x, applyInverse y t = some x ∧ apply x t = y

/-- R106: left rotation moves every element toward index 0, the first ones wrap to the end, and rotations add up modulo the
length; all-zero and all-one halves stay. R106 says it of shifts below the length; that it holds of every shift rests on the
model's choice to take a longer one modulo the length, log 20. -/
def Obligations.RotationsCompose : Prop :=
  (∀ (n s i : Nat) (h : Bits n), i < n → (rotl h s).getMsbD i = h.getMsbD ((i + s) % n)) ∧
  (∀ (n a b : Nat) (h : Bits n), rotl h 0 = h ∧ rotl (rotl h a) b = rotl h ((a + b) % n)) ∧
  ∀ n s : Nat, rotl (0 : Bits n) s = 0 ∧ rotl (BitVec.allOnes n) s = BitVec.allOnes n

/-- R110, R109: the eight nibbles of substitute are the S-box outputs of the eight chunks, S-box 0's first, and each is the
table's entry at row (first bit, last bit) and column (middle four bits). R109 says it of entries up to 15; that an entry
above 15, in tables that construction refuses, gives its remainder modulo 16 is the model's choice, log 21. -/
def Obligations.SubstituteByChunks : Prop :=
  (∀ (T : Tables) (x : Bits 48) (i : Fin 8),
    let row := 2 * (x.getMsbD (6 * i.val)).toNat + (x.getMsbD (6 * i.val + 5)).toNat
    let col := 8 * (x.getMsbD (6 * i.val + 1)).toNat + 4 * (x.getMsbD (6 * i.val + 2)).toNat +
      2 * (x.getMsbD (6 * i.val + 3)).toNat + (x.getMsbD (6 * i.val + 4)).toNat
    (slice (4 * i.val) 4 (substitute T x)).toNat = ((T.s[i].getD row (Vector.replicate 16 0)).getD col 0) % 16) ∧
  substitute tables 0x000000000000 = 0xEFA72C4D ∧ substitute tables 0xFFFFFFFFFFFF = 0xD9CE3DCB

/-! ## The key schedule -/

/-- R142: preprocess is the 56-to-56 permutation PC1R of the raw key, whose entries are PC-1's less the placeholders before
them. -/
def Obligations.PreprocessIsPc1r : Prop :=
  (∀ i : Fin 56, pc1rTable.getD i.val 0 = tables.pc1.getD i.val 0 - (tables.pc1.getD i.val 0 - 1) / 8) ∧
  isPermutation pc1rTable = true ∧
  ∀ raw : Bits 56, preprocess tables raw = apply raw pc1rTable

/-- R146: after round `r` both halves are the initial halves rotated by the shifts up to `r`, and after round 15 the
seed is the initial seed again. -/
def Obligations.CumulativeRotation : Prop :=
  ∀ (T : Tables) (raw : Bits 56),
    (∀ r : Fin 16, seedAfter (preprocess T raw) (rounds.take (r.val + 1)) =
      rotlHalves (preprocess T raw) (shiftTable.toList.take (r.val + 1)).sum) ∧
    seedAfter (preprocess T raw) rounds = preprocess T raw

/-- R148: with tables that pass the construction checks, the placeholder value reaches no seed. -/
def Obligations.PlaceholderUnobservable : Prop :=
  ∀ T : Tables, T.wf = true → ∀ (ph : Bool) (raw : Bits 56), apply (padWith ph raw) T.pc1 = preprocess T raw

/-- R149: the weak keys are exactly four, and each gives sixteen equal round keys, of the value listed. -/
def Obligations.WeakKeysAreFour : Prop :=
  (∀ raw : Bits 56,
    ((halfC (preprocess tables raw) = 0 ∨ halfC (preprocess tables raw) = BitVec.allOnes 28) ∧
     (halfD (preprocess tables raw) = 0 ∨ halfD (preprocess tables raw) = BitVec.allOnes 28)) ↔
    raw ∈ [(0x00000000000000 : Bits 56), 0xFFFFFFFFFFFFFF, 0xE1C3870F1E3C78, 0x1E3C78F0E1C387]) ∧
  ∀ r : Fin 16,
    (deriveAllRoundKeys tables 0x00000000000000)[r] = 0x000000000000 ∧
    (deriveAllRoundKeys tables 0xFFFFFFFFFFFFFF)[r] = 0xFFFFFFFFFFFF ∧
    (deriveAllRoundKeys tables 0xE1C3870F1E3C78)[r] = 0xFFFFFF000000 ∧
    (deriveAllRoundKeys tables 0x1E3C78F0E1C387)[r] = 0x000000FFFFFF

/-! ## Rounds and the cipher -/

/-- R167: the forward and the backward round undo each other, for any tables. -/
def Obligations.RoundsUndoEachOther : Prop :=
  ∀ (T : Tables) (lr : Bits 32 × Bits 32) (k : Bits 48),
    roundBwd T (roundFwd T lr k) k = lr ∧ roundFwd T (roundBwd T lr k) k = lr

/-- R168: complementing both the half and the round key leaves f unchanged. -/
def Obligations.FeistelComplementation : Prop :=
  ∀ T : Tables, T.wf = true → ∀ (h : Bits 32) (k : Bits 48),
    feistel T (~~~h) (~~~k) = feistel T h k ∧ feistel T (~~~h) k = feistel T h (~~~k)

/-- R182: decryption undoes encryption and encryption decryption, for every block, key and tables that pass the
construction checks. -/
def Obligations.CipherRoundTrip : Prop :=
  ∀ T : Tables, T.wf = true → ∀ (b : Bits 64) (k : Bits 56),
    decrypt T (encrypt T b k) k = b ∧ encrypt T (decrypt T b k) k = b

/-- R185: complementing block and key complements the result. -/
def Obligations.CipherComplementation : Prop :=
  ∀ T : Tables, T.wf = true → ∀ (b : Bits 64) (k : Bits 56),
    encrypt T (~~~b) (~~~k) = ~~~(encrypt T b k) ∧ decrypt T (~~~b) (~~~k) = ~~~(decrypt T b k)

/-- R150, R183 (general knowledge in the spec, log 18): for a 64-bit DES key with its parity bits deleted the round keys
are DES's, and Encrypt is DES without its last exchange of halves. -/
def Obligations.RelationToTextbookDes : Prop :=
  ∀ T : Tables, T.wf = true → ∀ (b k64 : Bits 64),
    deriveAllRoundKeys T (stripParity k64) = desRoundKeys T k64 ∧
    encrypt T b (stripParity k64) = apply (swap64 (apply (desEncrypt T b k64) T.ip)) T.fp

/-- R184, R182: the bit-list forms give PreconditionViolation and no output on lists of a wrong length, the typed result on
lists of the right ones, and undo each other, in both orders, with tables that pass the construction checks. -/
def Obligations.BitListFormsCheckLengthsFirst : Prop :=
  (∀ (T : Tables) (b k : List Bool), b.length ≠ 64 ∨ k.length ≠ 56 →
    encryptL T b k = .error .preconditionViolation ∧ decryptL T b k = .error .preconditionViolation) ∧
  (∀ (T : Tables) (b : Bits 64) (k : Bits 56),
    encryptL T (toList b) (toList k) = .ok (encrypt T b k) ∧
    decryptL T (toList b) (toList k) = .ok (decrypt T b k)) ∧
  ∀ (T : Tables) (b k : List Bool), T.wf = true → b.length = 64 → k.length = 56 →
    (∃ c, encryptL T b k = .ok c ∧ (decryptL T (toList c) k).map toList = .ok b) ∧
    ∃ p, decryptL T b k = .ok p ∧ (encryptL T (toList p) k).map toList = .ok b

/-- 95_test_vectors.md section 1: the golden vector and its decryption. -/
def Obligations.GoldenVector : Prop :=
  encrypt tables 0x0000000000000000 0x00000000000000 = 0x4C598ED6C272135B ∧
  decrypt tables 0x4C598ED6C272135B 0x00000000000000 = 0x0000000000000000
end

