-- ==== Sys2Proof/Laws/BitSeq.lean ====
section
/-! SUPPORT. What the bit-sequence primitives do, element by element. Cite these instead of unfolding `build`. -/

namespace Sys2Proof.Machine

@[simp] theorem getMsbD_build (n : Nat) (f : Nat → Bool) (i : Nat) :
    (build n f).getMsbD i = (decide (i < n) && f i) := by
  induction n with
  | zero => simp [build]
  | succ n ih =>
    rw [build, BitVec.getMsbD_concat, ih]
    rcases Nat.lt_trichotomy i n with h | rfl | h
    · simp [h, Nat.lt_succ_of_lt h]
    · simp
    · have h1 : ¬ i < n := by omega
      have h2 : ¬ i < n + 1 := by omega
      have h3 : i ≠ n := by omega
      simp [h1, h2, h3]

theorem build_congr {n : Nat} {f g : Nat → Bool} (h : ∀ i < n, f i = g i) : build n f = build n g := by
  apply BitVec.eq_of_getMsbD_eq
  intro i hi
  simp [hi, h i hi]

theorem build_getMsbD {n : Nat} (x : Bits n) : build n x.getMsbD = x := by
  apply BitVec.eq_of_getMsbD_eq
  intro i hi
  simp [hi]

@[simp] theorem getMsbD_slice {m : Nat} (a n : Nat) (x : Bits m) (i : Nat) :
    (slice a n x).getMsbD i = (decide (i < n) && x.getMsbD (a + i)) := by
  simp [slice]

@[simp] theorem getMsbD_apply {A B : Nat} (x : Bits A) (t : Vector Nat B) (i : Nat) :
    (apply x t).getMsbD i = (decide (i < B) && x.getMsbD (t.getD i 0 - 1)) := by
  simp [apply]

@[simp] theorem getMsbD_rotl {n : Nat} (h : Bits n) (s i : Nat) :
    (rotl h s).getMsbD i = (decide (i < n) && h.getMsbD ((i + s) % n)) := by
  simp [rotl]

@[simp] theorem getMsbD_chunk (x : Bits 48) (i : Fin 8) (j : Nat) :
    (chunk x i).getMsbD j = (decide (j < 6) && x.getMsbD (6 * i.val + j)) := by
  simp [chunk]

/-- Complementing a sequence complements each of its elements. -/
theorem getMsbD_compl {n : Nat} (x : Bits n) {i : Nat} (hi : i < n) : (~~~x).getMsbD i = !x.getMsbD i := by
  simp [hi]

/-- The first and the second part of a concatenation. -/
theorem slice_append {m n : Nat} (x : Bits m) (y : Bits n) : slice 0 m (x ++ y) = x ∧ slice m n (x ++ y) = y := by
  constructor <;> apply BitVec.eq_of_getMsbD_eq <;> intro i hi
  · simp [hi, BitVec.getMsbD_append, Nat.not_le.mpr hi]
  · simp [hi, BitVec.getMsbD_append]

/-- A sequence is its two parts put together. -/
theorem append_slice {m n : Nat} (x : Bits (m + n)) : slice 0 m x ++ slice m n x = x := by
  apply BitVec.eq_of_getMsbD_eq
  intro i hi
  rw [BitVec.getMsbD_append]
  split
  · rename_i h
    have h1 : i - m < n := by omega
    have h2 : m + (i - m) = i := by omega
    simp [h1, h2]
  · rename_i h
    simp [Nat.lt_of_not_le h]

/-- A part that lies in the first of two concatenated sequences. -/
theorem slice_append_left {m n : Nat} (x : Bits m) (y : Bits n) {a k : Nat} (h : a + k ≤ m) :
    slice a k (x ++ y) = slice a k x := by
  apply BitVec.eq_of_getMsbD_eq
  intro i hi
  simp [hi, BitVec.getMsbD_append]
  omega

theorem slice_self {n : Nat} (x : Bits n) : slice 0 n x = x := by
  apply BitVec.eq_of_getMsbD_eq
  intro i hi
  simp [hi]

/-! ### Complement -/

theorem compl_append {m n : Nat} (x : Bits m) (y : Bits n) : ~~~x ++ ~~~y = ~~~(x ++ y) := by
  apply BitVec.eq_of_getMsbD_eq
  intro i hi
  rw [getMsbD_compl _ hi, BitVec.getMsbD_append, BitVec.getMsbD_append]
  split
  · exact getMsbD_compl _ (by omega)
  · exact getMsbD_compl _ (by omega)

theorem slice_compl {m : Nat} (x : Bits m) {a k : Nat} (h : a + k ≤ m) : slice a k (~~~x) = ~~~(slice a k x) := by
  apply BitVec.eq_of_getMsbD_eq
  intro i hi
  rw [getMsbD_compl _ hi, getMsbD_slice, getMsbD_slice, getMsbD_compl _ (by omega)]
  simp [hi]

theorem rotl_compl {n : Nat} (x : Bits n) (s : Nat) : rotl (~~~x) s = ~~~(rotl x s) := by
  apply BitVec.eq_of_getMsbD_eq
  intro i hi
  rw [getMsbD_compl _ hi, getMsbD_rotl, getMsbD_rotl, getMsbD_compl _ (Nat.mod_lt _ (by omega))]
  simp [hi]

/-! ### Tables -/

theorem getD_of_lt {B : Nat} (t : Vector Nat B) {i : Nat} (h : i < B) : t.getD i 0 = t[i] := by
  simp [Vector.getD, h]

theorem getD_eq_toList {B : Nat} (t : Vector Nat B) {i : Nat} (h : i < B) :
    t.getD i 0 = t.toList[i]'(by simpa using h) := by
  rw [getD_of_lt t h]; simp

/-- Every entry of a table that passes the range check is a one-based position. -/
theorem inRange_entry {B n : Nat} {t : Vector Nat B} (h : inRange n t = true) {i : Nat} (hi : i < B) :
    1 ≤ t.getD i 0 ∧ t.getD i 0 ≤ n := by
  have := List.all_eq_true.mp h (t.toList[i]'(by simpa using hi)) (List.getElem_mem _)
  rw [getD_eq_toList t hi]
  simpa using this

theorem isPermutation_iff {B : Nat} {t : Vector Nat B} :
    isPermutation t = true ↔ t.toList.Perm ((List.range B).map (· + 1)) := by
  rw [isPermutation, List.isPerm_iff]

/-- The entries of a permutation are one-based positions. -/
theorem isPermutation_entry {B : Nat} {t : Vector Nat B} (h : isPermutation t = true) {i : Nat} (hi : i < B) :
    1 ≤ t.getD i 0 ∧ t.getD i 0 ≤ B := by
  have hm : t.getD i 0 ∈ (List.range B).map (· + 1) := by
    rw [getD_eq_toList t hi]
    exact (isPermutation_iff.mp h).mem_iff.mp (List.getElem_mem _)
  obtain ⟨j, hj, he⟩ := List.mem_map.mp hm
  have := List.mem_range.mp hj
  omega

/-- A permutation names position `j + 1`, at `placeOf`. -/
theorem placeOf_spec {B : Nat} {t : Vector Nat B} (h : isPermutation t = true) {j : Nat} (hj : j < B) :
    placeOf t j < B ∧ t.getD (placeOf t j) 0 = j + 1 := by
  have hm : j + 1 ∈ t.toList :=
    (isPermutation_iff.mp h).mem_iff.mpr (List.mem_map.mpr ⟨j, List.mem_range.mpr hj, rfl⟩)
  have hl : placeOf t j < B := by simpa [placeOf] using List.idxOf_lt_length_of_mem hm
  refine ⟨hl, ?_⟩
  rw [getD_eq_toList t hl]
  exact List.getElem_idxOf _

/-- A permutation has no entry twice. -/
theorem isPermutation_inj {B : Nat} {t : Vector Nat B} (h : isPermutation t = true) {i j : Nat} (hi : i < B) (hj : j < B)
    (he : t.getD i 0 = t.getD j 0) : i = j := by
  have hn : t.toList.Nodup := by
    refine (isPermutation_iff.mp h).nodup_iff.mpr ?_
    exact (List.nodup_range).map (fun a b hab => by simpa using hab)
  rw [getD_eq_toList t hi, getD_eq_toList t hj] at he
  exact (List.Nodup.getElem_inj_iff hn).mp he

/-- `placeOf` undoes the table. -/
theorem placeOf_entry {B : Nat} {t : Vector Nat B} (h : isPermutation t = true) {i : Nat} (hi : i < B) :
    placeOf t (t.getD i 0 - 1) = i := by
  have hr := isPermutation_entry h hi
  have hp := placeOf_spec h (j := t.getD i 0 - 1) (by omega)
  exact isPermutation_inj h hp.1 hi (by omega)

/-- `FP<IP<i> - 1> = i + 1`. -/
theorem invertsTable_entry {B : Nat} {fp ip : Vector Nat B} (h : invertsTable fp ip = true) {i : Nat} (hi : i < B) :
    fp.getD (ip.getD i 0 - 1) 0 = i + 1 := by
  simpa using List.all_eq_true.mp h i (List.mem_range.mpr hi)

/-- apply copies bits, so it commutes with complement wherever the table stays in range. -/
theorem apply_compl {A B : Nat} {t : Vector Nat B} (h : inRange A t = true) (x : Bits A) :
    apply (~~~x) t = ~~~(apply x t) := by
  apply BitVec.eq_of_getMsbD_eq
  intro i hi
  have := inRange_entry h hi
  rw [getMsbD_compl _ hi, getMsbD_apply, getMsbD_apply, getMsbD_compl _ (by omega)]
  simp [hi]

theorem inRange_of_isPermutation {B : Nat} {t : Vector Nat B} (h : isPermutation t = true) : inRange B t = true := by
  rw [inRange, List.all_eq_true]
  intro v hv
  obtain ⟨j, hj, rfl⟩ := List.mem_map.mp ((isPermutation_iff.mp h).mem_iff.mp hv)
  have := List.mem_range.mp hj
  simp; omega

/-- The construction checks, one by one. -/
theorem tables_wf_iff (T : Tables) : T.wf = true ↔
    isPermutation T.ip = true ∧ isPermutation T.fp = true ∧ isPermutation T.p = true ∧
      invertsTable T.fp T.ip = true ∧ inRange 32 T.e = true ∧ T.pc1Ok = true ∧ T.pc2Ok = true ∧ T.sOk = true := by
  simp only [Tables.wf, Bool.and_eq_true, and_assoc]

/-- A set of tables is built exactly when it passes every check. -/
theorem tables_build_eq_ok (T : Tables) : T.build = .ok T ↔ T.wf = true := by
  rw [tables_wf_iff, Tables.build]
  repeat' split
  all_goals simp_all

/-- What PC-1's check says of its entries. -/
theorem pc1Ok_entry {T : Tables} (h : T.pc1Ok = true) {i : Nat} (hi : i < 56) :
    1 ≤ T.pc1.getD i 0 ∧ T.pc1.getD i 0 ≤ 64 ∧ T.pc1.getD i 0 % 8 ≠ 0 := by
  simp only [Tables.pc1Ok, Bool.and_eq_true] at h
  have hr := inRange_entry h.1.1 hi
  have hm := List.all_eq_true.mp h.2 (T.pc1.toList[i]'(by simpa using hi)) (List.getElem_mem _)
  rw [← getD_eq_toList T.pc1 hi] at hm
  exact ⟨hr.1, hr.2, by simpa using hm⟩

theorem pc2Ok_inRange {T : Tables} (h : T.pc2Ok = true) : inRange 56 T.pc2 = true := by
  simp only [Tables.pc2Ok, Bool.and_eq_true] at h
  exact h.1

end Sys2Proof.Machine
end

