-- ==== Sys2Proof/Laws/Cipher.lean ====
section
/-! SUPPORT. What the key schedule, the S-box bank and the halves of a block do, piece by piece. -/

namespace Sys2Proof.Machine

/-! ### Key schedule -/

theorem getMsbD_pad (raw : Bits 56) (i : Nat) :
    (pad raw).getMsbD i = (decide (i < 64) && if i % 8 = 7 then false else raw.getMsbD (7 * (i / 8) + i % 8)) := by
  simp [pad, padWith]

@[simp] theorem halfC_rotlHalves (seed : Bits 56) (n : Nat) : halfC (rotlHalves seed n) = rotl (halfC seed) n :=
  (slice_append (rotl (halfC seed) n) (rotl (halfD seed) n)).1

@[simp] theorem halfD_rotlHalves (seed : Bits 56) (n : Nat) : halfD (rotlHalves seed n) = rotl (halfD seed) n :=
  (slice_append (rotl (halfC seed) n) (rotl (halfD seed) n)).2

/-- A seed is its two halves. -/
theorem halves_append (seed : Bits 56) : halfC seed ++ halfD seed = seed :=
  append_slice (m := 28) (n := 28) seed

theorem seed_eq_of_halves {a b : Bits 56} (hc : halfC a = halfC b) (hd : halfD a = halfD b) : a = b := by
  rw [← halves_append a, ← halves_append b, hc, hd]

theorem getElem_deriveAllRoundKeys (T : Tables) (raw : Bits 56) (r : Fin 16) :
    (deriveAllRoundKeys T raw)[r] = compress T (seedAfter (preprocess T raw) (rounds.take (r.val + 1))) := by
  simp [deriveAllRoundKeys]

theorem rotlHalves_compl (x : Bits 56) (n : Nat) : rotlHalves (~~~x) n = ~~~(rotlHalves x n) := by
  have hc : halfC (~~~x) = ~~~(halfC x) := slice_compl (m := 56) x (by omega)
  have hd : halfD (~~~x) = ~~~(halfD x) := slice_compl (m := 56) x (by omega)
  rw [rotlHalves, hc, hd, rotl_compl, rotl_compl]
  exact compl_append _ _

/-! ### The S-box bank -/

/-- Nibble `i` of substitute is S-box `i`'s. -/
theorem slice_substitute (T : Tables) (x : Bits 48) (i : Fin 8) :
    slice (4 * i.val) 4 (substitute T x) = sboxLookup T i (chunk x i) := by
  have right {m : Nat} (a : Bits m) (b : Bits 4) : slice m 4 (a ++ b) = b :=
    (slice_append a b).2
  have left {m k : Nat} (a : Bits m) (b : Bits 4) (h : k + 4 ≤ m) : slice k 4 (a ++ b) = slice k 4 a :=
    slice_append_left a b h
  match i with
  | 0 =>
    exact (left _ _ (by omega)).trans <| (left _ _ (by omega)).trans <| (left _ _ (by omega)).trans <|
      (left _ _ (by omega)).trans <| (left _ _ (by omega)).trans <| (left _ _ (by omega)).trans <|
      (left _ _ (by omega)).trans (slice_self _)
  | 1 =>
    exact (left _ _ (by omega)).trans <| (left _ _ (by omega)).trans <| (left _ _ (by omega)).trans <|
      (left _ _ (by omega)).trans <| (left _ _ (by omega)).trans <| (left _ _ (by omega)).trans (right _ _)
  | 2 =>
    exact (left _ _ (by omega)).trans <| (left _ _ (by omega)).trans <| (left _ _ (by omega)).trans <|
      (left _ _ (by omega)).trans <| (left _ _ (by omega)).trans (right _ _)
  | 3 =>
    exact (left _ _ (by omega)).trans <| (left _ _ (by omega)).trans <| (left _ _ (by omega)).trans <|
      (left _ _ (by omega)).trans (right _ _)
  | 4 => exact (left _ _ (by omega)).trans <| (left _ _ (by omega)).trans <| (left _ _ (by omega)).trans (right _ _)
  | 5 => exact (left _ _ (by omega)).trans <| (left _ _ (by omega)).trans (right _ _)
  | 6 => exact (left _ _ (by omega)).trans (right _ _)
  | 7 => exact right _ _

/-! ### Halves of a block -/

/-- The halves of a block put together are the block. -/
theorem join_split (t : Bits 64) : joinHalves (splitHalves t) = t :=
  append_slice (m := 32) (n := 32) t

theorem split_join (lr : Bits 32 × Bits 32) : splitHalves (joinHalves lr) = lr := by
  obtain ⟨h1, h2⟩ := slice_append lr.1 lr.2
  exact Prod.ext h1 h2

theorem splitHalves_compl (x : Bits 64) : splitHalves (~~~x) = (~~~(splitHalves x).1, ~~~(splitHalves x).2) :=
  Prod.ext (slice_compl x (by omega)) (slice_compl x (by omega))

theorem joinHalves_compl (l r : Bits 32) : joinHalves (~~~l, ~~~r) = ~~~(joinHalves (l, r)) :=
  compl_append l r

end Sys2Proof.Machine
end

