-- ==== Sys2Proof/Laws/Decode.lean ====
section
/-! SUPPORT. The decoder as a function of the number a word is. -/

namespace Sys2Proof

theorem rsvdField_toNat (w : Word) : (rsvdField w).toNat = w.toNat / 16 := by
  simp [rsvdField, BitVec.extractLsb'_toNat, Nat.shiftRight_eq_div_pow]
  omega

theorem opField_toNat (w : Word) : (opField w).toNat = w.toNat % 16 := by
  simp [opField, BitVec.extractLsb'_toNat]

/-- RSVD is nonzero exactly for the words from 16 up. -/
theorem rsvdField_ne_zero (w : Word) : rsvdField w ≠ 0 ↔ 16 ≤ w.toNat := by
  rw [Ne, ← BitVec.toNat_inj, rsvdField_toNat]
  simp

/-- The decoder by the word's number (30_encoding.md R72, R74). -/
theorem decode_eq (w : Word) : decode w =
    if 16 ≤ w.toNat then .error .reservedBits
    else if w.toNat = 0 then .ok .nop
    else if w.toNat = 1 then .ok .encrypt
    else if w.toNat = 2 then .ok .decrypt
    else if w.toNat = 3 then .ok .clear
    else .error .reservedOp := by
  rw [decode]
  by_cases h : 16 ≤ w.toNat
  · rw [if_pos ((rsvdField_ne_zero w).mpr h), if_pos h]
  · have hm : w.toNat % 16 = w.toNat := by omega
    rw [if_neg (fun c => h ((rsvdField_ne_zero w).mp c)), if_neg h, opField_toNat, hm]
    split <;> simp_all

end Sys2Proof
end

