-- ==== Sys2Proof/Laws/State.lean ====
section
/-! SUPPORT. One lemma for each field of State under each update, true by definition, so that no proof unfolds a record
update; and the flags under each status update. -/

namespace Sys2Proof.Machine

/-! ### setDout -/

@[simp] theorem State.setDout_keyHi (s : State) (out : Bits 64) : (s.setDout out).keyHi = s.keyHi := rfl
@[simp] theorem State.setDout_keyLo (s : State) (out : Bits 64) : (s.setDout out).keyLo = s.keyLo := rfl
@[simp] theorem State.setDout_dinHi (s : State) (out : Bits 64) : (s.setDout out).dinHi = s.dinHi := rfl
@[simp] theorem State.setDout_dinLo (s : State) (out : Bits 64) : (s.setDout out).dinLo = s.dinLo := rfl
@[simp] theorem State.setDout_doutHi (s : State) (out : Bits 64) : (s.setDout out).doutHi = hiWordOf out := rfl
@[simp] theorem State.setDout_doutLo (s : State) (out : Bits 64) : (s.setDout out).doutLo = loWordOf out := rfl
@[simp] theorem State.setDout_status (s : State) (out : Bits 64) : (s.setDout out).status = s.status := rfl
@[simp] theorem State.setDout_phase (s : State) (out : Bits 64) : (s.setDout out).phase = s.phase := rfl
@[simp] theorem State.setDout_lop (s : State) (out : Bits 64) : (s.setDout out).lop = s.lop := rfl
@[simp] theorem State.setDout_lk (s : State) (out : Bits 64) : (s.setDout out).lk = s.lk := rfl
@[simp] theorem State.setDout_lb (s : State) (out : Bits 64) : (s.setDout out).lb = s.lb := rfl
@[simp] theorem State.setDout_dp (s : State) (out : Bits 64) : (s.setDout out).dp = s.dp := rfl
@[simp] theorem State.setDout_pending (s : State) (out : Bits 64) : (s.setDout out).pending = s.pending := rfl
@[simp] theorem State.setDout_readBack (s : State) (out : Bits 64) : (s.setDout out).readBack = s.readBack := rfl
@[simp] theorem State.setDout_reqMet (s : State) (out : Bits 64) : (s.setDout out).reqMet = s.reqMet := rfl
@[simp] theorem State.setDout_serial (s : State) (out : Bits 64) : (s.setDout out).serial = s.serial := rfl
@[simp] theorem State.setDout_due (s : State) (out : Bits 64) : (s.setDout out).due = s.due := rfl

/-! ### raiseError -/

@[simp] theorem State.raiseError_keyHi (s : State) (code : BitVec 4) : (s.raiseError code).keyHi = s.keyHi := rfl
@[simp] theorem State.raiseError_keyLo (s : State) (code : BitVec 4) : (s.raiseError code).keyLo = s.keyLo := rfl
@[simp] theorem State.raiseError_dinHi (s : State) (code : BitVec 4) : (s.raiseError code).dinHi = s.dinHi := rfl
@[simp] theorem State.raiseError_dinLo (s : State) (code : BitVec 4) : (s.raiseError code).dinLo = s.dinLo := rfl
@[simp] theorem State.raiseError_doutHi (s : State) (code : BitVec 4) : (s.raiseError code).doutHi = s.doutHi := rfl
@[simp] theorem State.raiseError_doutLo (s : State) (code : BitVec 4) : (s.raiseError code).doutLo = s.doutLo := rfl
@[simp] theorem State.raiseError_status (s : State) (code : BitVec 4) : (s.raiseError code).status = s.status.withError code := rfl
@[simp] theorem State.raiseError_phase (s : State) (code : BitVec 4) : (s.raiseError code).phase = s.phase := rfl
@[simp] theorem State.raiseError_lop (s : State) (code : BitVec 4) : (s.raiseError code).lop = s.lop := rfl
@[simp] theorem State.raiseError_lk (s : State) (code : BitVec 4) : (s.raiseError code).lk = s.lk := rfl
@[simp] theorem State.raiseError_lb (s : State) (code : BitVec 4) : (s.raiseError code).lb = s.lb := rfl
@[simp] theorem State.raiseError_dp (s : State) (code : BitVec 4) : (s.raiseError code).dp = s.dp := rfl
@[simp] theorem State.raiseError_pending (s : State) (code : BitVec 4) : (s.raiseError code).pending = s.pending := rfl
@[simp] theorem State.raiseError_readBack (s : State) (code : BitVec 4) : (s.raiseError code).readBack = s.readBack := rfl
@[simp] theorem State.raiseError_reqMet (s : State) (code : BitVec 4) : (s.raiseError code).reqMet = s.reqMet := rfl
@[simp] theorem State.raiseError_serial (s : State) (code : BitVec 4) : (s.raiseError code).serial = s.serial := rfl
@[simp] theorem State.raiseError_due (s : State) (code : BitVec 4) : (s.raiseError code).due = s.due := rfl

/-! ### collide -/

@[simp] theorem State.collide_keyHi (s : State) : (s.collide).keyHi = s.keyHi := rfl
@[simp] theorem State.collide_keyLo (s : State) : (s.collide).keyLo = s.keyLo := rfl
@[simp] theorem State.collide_dinHi (s : State) : (s.collide).dinHi = s.dinHi := rfl
@[simp] theorem State.collide_dinLo (s : State) : (s.collide).dinLo = s.dinLo := rfl
@[simp] theorem State.collide_doutHi (s : State) : (s.collide).doutHi = s.doutHi := rfl
@[simp] theorem State.collide_doutLo (s : State) : (s.collide).doutLo = s.doutLo := rfl
@[simp] theorem State.collide_status (s : State) : (s.collide).status = s.status.collided := rfl
@[simp] theorem State.collide_phase (s : State) : (s.collide).phase = s.phase := rfl
@[simp] theorem State.collide_lop (s : State) : (s.collide).lop = s.lop := rfl
@[simp] theorem State.collide_lk (s : State) : (s.collide).lk = s.lk := rfl
@[simp] theorem State.collide_lb (s : State) : (s.collide).lb = s.lb := rfl
@[simp] theorem State.collide_dp (s : State) : (s.collide).dp = s.dp := rfl
@[simp] theorem State.collide_pending (s : State) : (s.collide).pending = s.pending := rfl
@[simp] theorem State.collide_readBack (s : State) : (s.collide).readBack = s.readBack := rfl
@[simp] theorem State.collide_reqMet (s : State) : (s.collide).reqMet = s.reqMet := rfl
@[simp] theorem State.collide_serial (s : State) : (s.collide).serial = s.serial := rfl
@[simp] theorem State.collide_due (s : State) : (s.collide).due = s.due := rfl

/-! ### beginCipher -/

@[simp] theorem State.beginCipher_keyHi (s : State) : (s.beginCipher).keyHi = s.keyHi := rfl
@[simp] theorem State.beginCipher_keyLo (s : State) : (s.beginCipher).keyLo = s.keyLo := rfl
@[simp] theorem State.beginCipher_dinHi (s : State) : (s.beginCipher).dinHi = s.dinHi := rfl
@[simp] theorem State.beginCipher_dinLo (s : State) : (s.beginCipher).dinLo = s.dinLo := rfl
@[simp] theorem State.beginCipher_doutHi (s : State) : (s.beginCipher).doutHi = 0 := rfl
@[simp] theorem State.beginCipher_doutLo (s : State) : (s.beginCipher).doutLo = 0 := rfl
@[simp] theorem State.beginCipher_status (s : State) : (s.beginCipher).status = s.status.forCommand := rfl
@[simp] theorem State.beginCipher_phase (s : State) : (s.beginCipher).phase = s.phase := rfl
@[simp] theorem State.beginCipher_lop (s : State) : (s.beginCipher).lop = s.lop := rfl
@[simp] theorem State.beginCipher_lk (s : State) : (s.beginCipher).lk = s.lk := rfl
@[simp] theorem State.beginCipher_lb (s : State) : (s.beginCipher).lb = s.lb := rfl
@[simp] theorem State.beginCipher_dp (s : State) : (s.beginCipher).dp = s.dp := rfl
@[simp] theorem State.beginCipher_pending (s : State) : (s.beginCipher).pending = s.pending := rfl
@[simp] theorem State.beginCipher_readBack (s : State) : (s.beginCipher).readBack = s.readBack := rfl
@[simp] theorem State.beginCipher_reqMet (s : State) : (s.beginCipher).reqMet = s.reqMet := rfl
@[simp] theorem State.beginCipher_serial (s : State) : (s.beginCipher).serial = s.serial := rfl
@[simp] theorem State.beginCipher_due (s : State) : (s.beginCipher).due = s.due := rfl

/-! ### accept -/

@[simp] theorem State.accept_keyHi (s : State) (op : CipherOp) : (s.accept op).keyHi = s.keyHi := rfl
@[simp] theorem State.accept_keyLo (s : State) (op : CipherOp) : (s.accept op).keyLo = s.keyLo := rfl
@[simp] theorem State.accept_dinHi (s : State) (op : CipherOp) : (s.accept op).dinHi = s.dinHi := rfl
@[simp] theorem State.accept_dinLo (s : State) (op : CipherOp) : (s.accept op).dinLo = s.dinLo := rfl
@[simp] theorem State.accept_doutHi (s : State) (op : CipherOp) : (s.accept op).doutHi = s.doutHi := rfl
@[simp] theorem State.accept_doutLo (s : State) (op : CipherOp) : (s.accept op).doutLo = s.doutLo := rfl
@[simp] theorem State.accept_status (s : State) (op : CipherOp) : (s.accept op).status = s.status.started := rfl
@[simp] theorem State.accept_phase (s : State) (op : CipherOp) : (s.accept op).phase = .run := rfl
@[simp] theorem State.accept_lop (s : State) (op : CipherOp) : (s.accept op).lop = op := rfl
@[simp] theorem State.accept_lk (s : State) (op : CipherOp) : (s.accept op).lk = s.keySeq := rfl
@[simp] theorem State.accept_lb (s : State) (op : CipherOp) : (s.accept op).lb = s.blkSeq := rfl
@[simp] theorem State.accept_dp (s : State) (op : CipherOp) : (s.accept op).dp = s.dp := rfl
@[simp] theorem State.accept_pending (s : State) (op : CipherOp) : (s.accept op).pending = s.pending := rfl
@[simp] theorem State.accept_readBack (s : State) (op : CipherOp) : (s.accept op).readBack = s.readBack := rfl
@[simp] theorem State.accept_reqMet (s : State) (op : CipherOp) : (s.accept op).reqMet = s.reqMet := rfl
@[simp] theorem State.accept_serial (s : State) (op : CipherOp) : (s.accept op).serial = s.serial + 1 := rfl
@[simp] theorem State.accept_due (s : State) (op : CipherOp) : (s.accept op).due = Config.latency s.serial op s.keySeq s.blkSeq := rfl

/-! ### clearAll -/

@[simp] theorem State.clearAll_keyHi (s : State) : (s.clearAll).keyHi = 0 := rfl
@[simp] theorem State.clearAll_keyLo (s : State) : (s.clearAll).keyLo = 0 := rfl
@[simp] theorem State.clearAll_dinHi (s : State) : (s.clearAll).dinHi = 0 := rfl
@[simp] theorem State.clearAll_dinLo (s : State) : (s.clearAll).dinLo = 0 := rfl
@[simp] theorem State.clearAll_doutHi (s : State) : (s.clearAll).doutHi = 0 := rfl
@[simp] theorem State.clearAll_doutLo (s : State) : (s.clearAll).doutLo = 0 := rfl
@[simp] theorem State.clearAll_status (s : State) : (s.clearAll).status = Status.zero := rfl
@[simp] theorem State.clearAll_phase (s : State) : (s.clearAll).phase = s.phase := rfl
@[simp] theorem State.clearAll_lop (s : State) : (s.clearAll).lop = .enc := rfl
@[simp] theorem State.clearAll_lk (s : State) : (s.clearAll).lk = 0 := rfl
@[simp] theorem State.clearAll_lb (s : State) : (s.clearAll).lb = 0 := rfl
@[simp] theorem State.clearAll_dp (s : State) : (s.clearAll).dp = s.dp := rfl
@[simp] theorem State.clearAll_pending (s : State) : (s.clearAll).pending = s.pending := rfl
@[simp] theorem State.clearAll_readBack (s : State) : (s.clearAll).readBack = s.readBack := rfl
@[simp] theorem State.clearAll_reqMet (s : State) : (s.clearAll).reqMet = s.reqMet := rfl
@[simp] theorem State.clearAll_serial (s : State) : (s.clearAll).serial = s.serial := rfl
@[simp] theorem State.clearAll_due (s : State) : (s.clearAll).due = s.due := rfl

/-! ### applyReset -/

@[simp] theorem State.applyReset_keyHi (s : State) : (s.applyReset).keyHi = 0 := rfl
@[simp] theorem State.applyReset_keyLo (s : State) : (s.applyReset).keyLo = 0 := rfl
@[simp] theorem State.applyReset_dinHi (s : State) : (s.applyReset).dinHi = 0 := rfl
@[simp] theorem State.applyReset_dinLo (s : State) : (s.applyReset).dinLo = 0 := rfl
@[simp] theorem State.applyReset_doutHi (s : State) : (s.applyReset).doutHi = 0 := rfl
@[simp] theorem State.applyReset_doutLo (s : State) : (s.applyReset).doutLo = 0 := rfl
@[simp] theorem State.applyReset_status (s : State) : (s.applyReset).status = Status.zero := rfl
@[simp] theorem State.applyReset_phase (s : State) : (s.applyReset).phase = .idle := rfl
@[simp] theorem State.applyReset_lop (s : State) : (s.applyReset).lop = .enc := rfl
@[simp] theorem State.applyReset_lk (s : State) : (s.applyReset).lk = 0 := rfl
@[simp] theorem State.applyReset_lb (s : State) : (s.applyReset).lb = 0 := rfl
@[simp] theorem State.applyReset_dp (s : State) : (s.applyReset).dp = Datapath.zero := rfl
@[simp] theorem State.applyReset_pending (s : State) : (s.applyReset).pending = s.pending := rfl
@[simp] theorem State.applyReset_readBack (s : State) : (s.applyReset).readBack = s.readBack := rfl
@[simp] theorem State.applyReset_reqMet (s : State) : (s.applyReset).reqMet = s.reqMet := rfl
@[simp] theorem State.applyReset_serial (s : State) : (s.applyReset).serial = s.serial := rfl
@[simp] theorem State.applyReset_due (s : State) : (s.applyReset).due = 0 := rfl

/-! ### complete -/

@[simp] theorem State.complete_keyHi (s : State) : (s.complete).keyHi = s.keyHi := rfl
@[simp] theorem State.complete_keyLo (s : State) : (s.complete).keyLo = s.keyLo := rfl
@[simp] theorem State.complete_dinHi (s : State) : (s.complete).dinHi = s.dinHi := rfl
@[simp] theorem State.complete_dinLo (s : State) : (s.complete).dinLo = s.dinLo := rfl
@[simp] theorem State.complete_doutHi (s : State) : (s.complete).doutHi = hiWordOf s.result := rfl
@[simp] theorem State.complete_doutLo (s : State) : (s.complete).doutLo = loWordOf s.result := rfl
@[simp] theorem State.complete_status (s : State) : (s.complete).status = s.status.completed := rfl
@[simp] theorem State.complete_phase (s : State) : (s.complete).phase = .idle := rfl
@[simp] theorem State.complete_lop (s : State) : (s.complete).lop = s.lop := rfl
@[simp] theorem State.complete_lk (s : State) : (s.complete).lk = s.lk := rfl
@[simp] theorem State.complete_lb (s : State) : (s.complete).lb = s.lb := rfl
@[simp] theorem State.complete_dp (s : State) : (s.complete).dp = s.dp.run tables s.lop s.lk s.lb := rfl
@[simp] theorem State.complete_pending (s : State) : (s.complete).pending = s.pending := rfl
@[simp] theorem State.complete_readBack (s : State) : (s.complete).readBack = s.readBack := rfl
@[simp] theorem State.complete_reqMet (s : State) : (s.complete).reqMet = s.reqMet := rfl
@[simp] theorem State.complete_serial (s : State) : (s.complete).serial = s.serial := rfl
@[simp] theorem State.complete_due (s : State) : (s.complete).due = s.due := rfl

/-! ### hostRead, tick and writeReg -/

@[simp] theorem hostRead_keyHi (r : Reg) (s : State) : (hostRead r s).keyHi = s.keyHi := rfl
@[simp] theorem hostRead_keyLo (r : Reg) (s : State) : (hostRead r s).keyLo = s.keyLo := rfl
@[simp] theorem hostRead_dinHi (r : Reg) (s : State) : (hostRead r s).dinHi = s.dinHi := rfl
@[simp] theorem hostRead_dinLo (r : Reg) (s : State) : (hostRead r s).dinLo = s.dinLo := rfl
@[simp] theorem hostRead_doutHi (r : Reg) (s : State) : (hostRead r s).doutHi = s.doutHi := rfl
@[simp] theorem hostRead_doutLo (r : Reg) (s : State) : (hostRead r s).doutLo = s.doutLo := rfl
@[simp] theorem hostRead_status (r : Reg) (s : State) : (hostRead r s).status = s.status := rfl
@[simp] theorem hostRead_phase (r : Reg) (s : State) : (hostRead r s).phase = s.phase := rfl
@[simp] theorem hostRead_lop (r : Reg) (s : State) : (hostRead r s).lop = s.lop := rfl
@[simp] theorem hostRead_lk (r : Reg) (s : State) : (hostRead r s).lk = s.lk := rfl
@[simp] theorem hostRead_lb (r : Reg) (s : State) : (hostRead r s).lb = s.lb := rfl
@[simp] theorem hostRead_dp (r : Reg) (s : State) : (hostRead r s).dp = s.dp := rfl
@[simp] theorem hostRead_pending (r : Reg) (s : State) : (hostRead r s).pending = s.pending := rfl
@[simp] theorem hostRead_readBack (r : Reg) (s : State) : (hostRead r s).readBack = s.readReg r :: s.readBack := rfl
@[simp] theorem hostRead_reqMet (r : Reg) (s : State) : (hostRead r s).reqMet = s.reqMet := rfl
@[simp] theorem hostRead_serial (r : Reg) (s : State) : (hostRead r s).serial = s.serial := rfl
@[simp] theorem hostRead_due (r : Reg) (s : State) : (hostRead r s).due = s.due := rfl

@[simp] theorem State.tick_keyHi (s : State) : s.tick.keyHi = s.keyHi := by
  unfold State.tick; split <;> rfl
@[simp] theorem State.tick_keyLo (s : State) : s.tick.keyLo = s.keyLo := by
  unfold State.tick; split <;> rfl
@[simp] theorem State.tick_dinHi (s : State) : s.tick.dinHi = s.dinHi := by
  unfold State.tick; split <;> rfl
@[simp] theorem State.tick_dinLo (s : State) : s.tick.dinLo = s.dinLo := by
  unfold State.tick; split <;> rfl
@[simp] theorem State.tick_doutHi (s : State) : s.tick.doutHi = s.doutHi := by
  unfold State.tick; split <;> rfl
@[simp] theorem State.tick_doutLo (s : State) : s.tick.doutLo = s.doutLo := by
  unfold State.tick; split <;> rfl
@[simp] theorem State.tick_status (s : State) : s.tick.status = s.status := by
  unfold State.tick; split <;> rfl
@[simp] theorem State.tick_phase (s : State) : s.tick.phase = s.phase := by
  unfold State.tick; split <;> rfl
@[simp] theorem State.tick_lop (s : State) : s.tick.lop = s.lop := by
  unfold State.tick; split <;> rfl
@[simp] theorem State.tick_lk (s : State) : s.tick.lk = s.lk := by
  unfold State.tick; split <;> rfl
@[simp] theorem State.tick_lb (s : State) : s.tick.lb = s.lb := by
  unfold State.tick; split <;> rfl
@[simp] theorem State.tick_dp (s : State) : s.tick.dp = s.dp := by
  unfold State.tick; split <;> rfl
@[simp] theorem State.tick_pending (s : State) : s.tick.pending = s.pending := by
  unfold State.tick; split <;> rfl
@[simp] theorem State.tick_readBack (s : State) : s.tick.readBack = s.readBack := by
  unfold State.tick; split <;> rfl
@[simp] theorem State.tick_reqMet (s : State) : s.tick.reqMet = s.reqMet := by
  unfold State.tick; split <;> rfl
@[simp] theorem State.tick_serial (s : State) : s.tick.serial = s.serial := by
  unfold State.tick; split <;> rfl

theorem State.tick_due (s : State) : s.tick.due = if s.phase = .run then s.due - 1 else s.due := by
  unfold State.tick; split <;> simp_all

/-- Counting an access changes nothing but `due`. -/
theorem State.tick_eq (s : State) : ∃ d, s.tick = { s with due := d } := by
  unfold State.tick
  split
  · exact ⟨_, rfl⟩
  · exact ⟨s.due, rfl⟩

/-- A host access leaves an idle block's state as it is. -/
theorem State.tick_idle {s : State} (h : s.phase = .idle) : s.tick = s := by
  simp [State.tick, h]

@[simp] theorem State.writeReg_doutHi (s : State) (w : Word) (r : Reg) : (s.writeReg w r).doutHi = s.doutHi := by
  cases r <;> rfl
@[simp] theorem State.writeReg_doutLo (s : State) (w : Word) (r : Reg) : (s.writeReg w r).doutLo = s.doutLo := by
  cases r <;> rfl
@[simp] theorem State.writeReg_phase (s : State) (w : Word) (r : Reg) : (s.writeReg w r).phase = s.phase := by
  cases r <;> rfl
@[simp] theorem State.writeReg_lop (s : State) (w : Word) (r : Reg) : (s.writeReg w r).lop = s.lop := by
  cases r <;> rfl
@[simp] theorem State.writeReg_lk (s : State) (w : Word) (r : Reg) : (s.writeReg w r).lk = s.lk := by
  cases r <;> rfl
@[simp] theorem State.writeReg_lb (s : State) (w : Word) (r : Reg) : (s.writeReg w r).lb = s.lb := by
  cases r <;> rfl
@[simp] theorem State.writeReg_dp (s : State) (w : Word) (r : Reg) : (s.writeReg w r).dp = s.dp := by
  cases r <;> rfl
@[simp] theorem State.writeReg_pending (s : State) (w : Word) (r : Reg) : (s.writeReg w r).pending = s.pending := by
  cases r <;> rfl
@[simp] theorem State.writeReg_readBack (s : State) (w : Word) (r : Reg) : (s.writeReg w r).readBack = s.readBack := by
  cases r <;> rfl
@[simp] theorem State.writeReg_reqMet (s : State) (w : Word) (r : Reg) : (s.writeReg w r).reqMet = s.reqMet := by
  cases r <;> rfl
@[simp] theorem State.writeReg_serial (s : State) (w : Word) (r : Reg) : (s.writeReg w r).serial = s.serial := by
  cases r <;> rfl
@[simp] theorem State.writeReg_due (s : State) (w : Word) (r : Reg) : (s.writeReg w r).due = s.due := by
  cases r <;> rfl

/-! ### Status -/

@[simp] theorem Status.forCommand_busy (f : Status) : (f.forCommand).busy = f.busy := rfl
@[simp] theorem Status.forCommand_done (f : Status) : (f.forCommand).done = false := rfl
@[simp] theorem Status.forCommand_err (f : Status) : (f.forCommand).err = false := rfl
@[simp] theorem Status.forCommand_coll (f : Status) : (f.forCommand).coll = f.coll := rfl
@[simp] theorem Status.forCommand_errCode (f : Status) : (f.forCommand).errCode = 0 := rfl
@[simp] theorem Status.forCommand_kvHi (f : Status) : (f.forCommand).kvHi = f.kvHi := rfl
@[simp] theorem Status.forCommand_kvLo (f : Status) : (f.forCommand).kvLo = f.kvLo := rfl
@[simp] theorem Status.forCommand_dvHi (f : Status) : (f.forCommand).dvHi = f.dvHi := rfl
@[simp] theorem Status.forCommand_dvLo (f : Status) : (f.forCommand).dvLo = f.dvLo := rfl
@[simp] theorem Status.forCommand_allValid (f : Status) : (f.forCommand).allValid = f.allValid := rfl

@[simp] theorem Status.withError_busy (f : Status) (c : BitVec 4) : (f.withError c).busy = f.busy := rfl
@[simp] theorem Status.withError_done (f : Status) (c : BitVec 4) : (f.withError c).done = false := rfl
@[simp] theorem Status.withError_err (f : Status) (c : BitVec 4) : (f.withError c).err = true := rfl
@[simp] theorem Status.withError_coll (f : Status) (c : BitVec 4) : (f.withError c).coll = f.coll := rfl
@[simp] theorem Status.withError_errCode (f : Status) (c : BitVec 4) : (f.withError c).errCode = c := rfl
@[simp] theorem Status.withError_kvHi (f : Status) (c : BitVec 4) : (f.withError c).kvHi = f.kvHi := rfl
@[simp] theorem Status.withError_kvLo (f : Status) (c : BitVec 4) : (f.withError c).kvLo = f.kvLo := rfl
@[simp] theorem Status.withError_dvHi (f : Status) (c : BitVec 4) : (f.withError c).dvHi = f.dvHi := rfl
@[simp] theorem Status.withError_dvLo (f : Status) (c : BitVec 4) : (f.withError c).dvLo = f.dvLo := rfl
@[simp] theorem Status.withError_allValid (f : Status) (c : BitVec 4) : (f.withError c).allValid = f.allValid := rfl

@[simp] theorem Status.started_busy (f : Status) : (f.started).busy = true := rfl
@[simp] theorem Status.started_done (f : Status) : (f.started).done = f.done := rfl
@[simp] theorem Status.started_err (f : Status) : (f.started).err = f.err := rfl
@[simp] theorem Status.started_coll (f : Status) : (f.started).coll = f.coll := rfl
@[simp] theorem Status.started_errCode (f : Status) : (f.started).errCode = f.errCode := rfl
@[simp] theorem Status.started_kvHi (f : Status) : (f.started).kvHi = f.kvHi := rfl
@[simp] theorem Status.started_kvLo (f : Status) : (f.started).kvLo = f.kvLo := rfl
@[simp] theorem Status.started_dvHi (f : Status) : (f.started).dvHi = f.dvHi := rfl
@[simp] theorem Status.started_dvLo (f : Status) : (f.started).dvLo = f.dvLo := rfl
@[simp] theorem Status.started_allValid (f : Status) : (f.started).allValid = f.allValid := rfl

@[simp] theorem Status.completed_busy (f : Status) : (f.completed).busy = false := rfl
@[simp] theorem Status.completed_done (f : Status) : (f.completed).done = true := rfl
@[simp] theorem Status.completed_err (f : Status) : (f.completed).err = f.err := rfl
@[simp] theorem Status.completed_coll (f : Status) : (f.completed).coll = f.coll := rfl
@[simp] theorem Status.completed_errCode (f : Status) : (f.completed).errCode = f.errCode := rfl
@[simp] theorem Status.completed_kvHi (f : Status) : (f.completed).kvHi = f.kvHi := rfl
@[simp] theorem Status.completed_kvLo (f : Status) : (f.completed).kvLo = f.kvLo := rfl
@[simp] theorem Status.completed_dvHi (f : Status) : (f.completed).dvHi = f.dvHi := rfl
@[simp] theorem Status.completed_dvLo (f : Status) : (f.completed).dvLo = f.dvLo := rfl
@[simp] theorem Status.completed_allValid (f : Status) : (f.completed).allValid = f.allValid := rfl

@[simp] theorem Status.collided_busy (f : Status) : (f.collided).busy = f.busy := rfl
@[simp] theorem Status.collided_done (f : Status) : (f.collided).done = f.done := rfl
@[simp] theorem Status.collided_err (f : Status) : (f.collided).err = f.err := rfl
@[simp] theorem Status.collided_coll (f : Status) : (f.collided).coll = true := rfl
@[simp] theorem Status.collided_errCode (f : Status) : (f.collided).errCode = f.errCode := rfl
@[simp] theorem Status.collided_kvHi (f : Status) : (f.collided).kvHi = f.kvHi := rfl
@[simp] theorem Status.collided_kvLo (f : Status) : (f.collided).kvLo = f.kvLo := rfl
@[simp] theorem Status.collided_dvHi (f : Status) : (f.collided).dvHi = f.dvHi := rfl
@[simp] theorem Status.collided_dvLo (f : Status) : (f.collided).dvLo = f.dvLo := rfl
@[simp] theorem Status.collided_allValid (f : Status) : (f.collided).allValid = f.allValid := rfl

/-! ### The host's view of the operand words -/

@[simp] theorem State.keySeq_tick (s : State) : s.tick.keySeq = s.keySeq := by simp [State.keySeq]

@[simp] theorem State.result_tick (s : State) : s.tick.result = s.result := by simp [State.result]

@[simp] theorem State.readReg_tick (s : State) (r : Reg) : s.tick.readReg r = s.readReg r := by
  cases r <;> simp [State.readReg, State.keyLoWord]

end Sys2Proof.Machine
end

