-- ==== Sys2Proof/Laws/Operands.lean ====
section
/-! SUPPORT. The operand, result and STATUS words, element by element. -/

namespace Sys2Proof.Machine

/-- Element `j` of a word is its bit `31 - j` (00_scope.md R12). -/
theorem getLsbD_word (w : Word) {j : Nat} (hj : j < 32) : w.getLsbD (31 - j) = w.getMsbD j := by
  simp [BitVec.getMsbD, hj]

@[simp] theorem getMsbD_keySeq (s : State) (i : Nat) :
    s.keySeq.getMsbD i = if 32 ≤ i then s.keyLo.getMsbD (i - 32) else s.keyHi.getMsbD i :=
  BitVec.getMsbD_append

@[simp] theorem getMsbD_blkSeq (s : State) (i : Nat) :
    s.blkSeq.getMsbD i = if 32 ≤ i then s.dinLo.getMsbD (i - 32) else s.dinHi.getMsbD i :=
  BitVec.getMsbD_append

@[simp] theorem getMsbD_doutSeq (s : State) (i : Nat) :
    s.doutSeq.getMsbD i = if 32 ≤ i then s.doutLo.getMsbD (i - 32) else s.doutHi.getMsbD i :=
  BitVec.getMsbD_append

theorem getMsbD_keyLoWord (s : State) (i : Nat) :
    s.keyLoWord.getMsbD i = if 24 ≤ i then (0 : BitVec 8).getMsbD (i - 24) else s.keyLo.getMsbD i :=
  BitVec.getMsbD_append

theorem hiWordOf_eq (b : Bits 64) : hiWordOf b = slice 0 32 b := by
  apply BitVec.eq_of_getMsbD_eq
  intro i hi
  have h1 : 31 - i < 32 := by omega
  have h3 : 32 + (31 - i) = 63 - i := by omega
  have h2 : i < 64 := by omega
  rw [getMsbD_slice]
  simp [hiWordOf, BitVec.getMsbD, hi, h1, h2, h3]

theorem keyHiWordOf_eq (k : Bits 56) : keyHiWordOf k = slice 0 32 k := by
  apply BitVec.eq_of_getMsbD_eq
  intro i hi
  have h1 : 31 - i < 32 := by omega
  have h3 : 24 + (31 - i) = 55 - i := by omega
  have h2 : i < 56 := by omega
  rw [getMsbD_slice]
  simp [keyHiWordOf, BitVec.getMsbD, hi, h1, h2, h3]

theorem mask32_bit {j : Nat} (hj : j < 32) : (0xFFFFFFFF : BitVec 64).getLsbD j = true := by
  have : ∀ j : Fin 32, (0xFFFFFFFF : BitVec 64).getLsbD j.val = true := by decide
  exact this ⟨j, hj⟩

theorem mask24_bit {j : Nat} (hj : j < 24) : (0xFFFFFF : BitVec 56).getLsbD j = true := by
  have : ∀ j : Fin 24, (0xFFFFFF : BitVec 56).getLsbD j.val = true := by decide
  exact this ⟨j, hj⟩

theorem loWordOf_eq (b : Bits 64) : loWordOf b = slice 32 32 b := by
  apply BitVec.eq_of_getMsbD_eq
  intro i hi
  have h1 : 32 - 1 - i < 32 := by omega
  have h2 : 32 + i < 64 := by omega
  have h3 : 64 - 1 - (32 + i) = 32 - 1 - i := by omega
  rw [getMsbD_slice]
  simp only [loWordOf, BitVec.getMsbD, BitVec.getLsbD_setWidth, BitVec.getLsbD_and, mask32_bit h1, hi, h1, h2, h3,
    decide_true, Bool.true_and, Bool.and_true]

theorem keyLoField_keyLoWordOf (k : Bits 56) : keyLoField (keyLoWordOf k) = slice 32 24 k := by
  apply BitVec.eq_of_getMsbD_eq
  intro i hi
  have h1 : 24 - 1 - i < 24 := by omega
  have h2 : 32 + i < 56 := by omega
  have h3 : 56 - 1 - (32 + i) = 24 - 1 - i := by omega
  have h4 : 8 + (24 - 1 - i) < 32 := by omega
  have h5 : 24 - 1 - i < 32 := by omega
  have h6 : ¬ 8 + (24 - 1 - i) < 8 := by omega
  have h7 : 8 + (24 - 1 - i) - 8 = 24 - 1 - i := by omega
  rw [getMsbD_slice]
  simp only [keyLoField, keyLoWordOf, BitVec.getMsbD, BitVec.getLsbD_extractLsb', BitVec.getLsbD_shiftLeft,
    BitVec.getLsbD_setWidth, BitVec.getLsbD_and, mask24_bit h1, hi, h1, h2, h3, h4, h5, h6, h7, decide_true,
    decide_false, Bool.not_false, Bool.true_and, Bool.and_true]

theorem keyLoField_append (k : Bits 24) (z : BitVec 8) : keyLoField (k ++ z) = k := by
  apply BitVec.eq_of_getLsbD_eq
  intro i hi
  have h : ¬ 8 + i < 8 := by omega
  have h' : 8 + i - 8 = i := by omega
  have ha := BitVec.getLsbD_append (x := k) (y := z) (i := 8 + i)
  rw [keyLoField, BitVec.getLsbD_extractLsb', decide_eq_true hi, Bool.true_and]
  rw [if_neg h, h'] at ha
  exact ha

/-- The bits a word carries into KEY_LO, read back, are the word without its low byte (10_state.md R23). -/
theorem keyLoField_read (w : Word) : keyLoField w ++ (0 : BitVec 8) = w &&& 0xFFFFFF00 := by
  have hm : ∀ j : Fin 32, (0xFFFFFF00 : Word).getLsbD j.val = decide (8 ≤ j.val) := by decide
  apply BitVec.eq_of_getLsbD_eq
  intro i hi
  rw [BitVec.getLsbD_append, BitVec.getLsbD_and]
  have := hm ⟨i, hi⟩
  simp only at this
  rw [this]
  split
  · simp; omega
  · have h8 : 8 ≤ i := by omega
    have h9 : 8 + (i - 8) = i := by omega
    have h10 : i - 8 < 24 := by omega
    simp [keyLoField, h8, h9, h10]

/-- The words of a key are its parts, KEY_LO's low byte zero (30_encoding.md R70). -/
theorem keyLoWordOf_eq (k : Bits 56) : keyLoWordOf k = slice 32 24 k ++ (0 : BitVec 8) := by
  have hm : ∀ w : Word, w &&& 0xFFFFFF00 = w → keyLoField w ++ (0 : BitVec 8) = w := by
    intro w hw
    rw [keyLoField_read, hw]
  rw [← keyLoField_keyLoWordOf]
  refine (hm _ ?_).symm
  apply BitVec.eq_of_getLsbD_eq
  intro i hi
  have hb : ∀ j : Fin 32, (0xFFFFFF00 : Word).getLsbD j.val = decide (8 ≤ j.val) := by decide
  have := hb ⟨i, hi⟩
  simp only at this
  rw [BitVec.getLsbD_and, this]
  by_cases h8 : 8 ≤ i
  · simp [h8]
  · have : i < 8 := by omega
    simp only [keyLoWordOf, BitVec.getLsbD_shiftLeft, this, decide_true, Bool.not_true, Bool.and_false, Bool.false_and]

/-- The result registers hold the result (10_state.md R39). -/
theorem doutSeq_of_words {s : State} {out : Bits 64} (hh : s.doutHi = hiWordOf out) (hl : s.doutLo = loWordOf out) :
    s.doutSeq = out := by
  rw [State.doutSeq, hh, hl, hiWordOf_eq, loWordOf_eq]
  exact append_slice (m := 32) (n := 32) out

@[simp] theorem doutSeq_setDout (s : State) (out : Bits 64) : (s.setDout out).doutSeq = out :=
  doutSeq_of_words rfl rfl

@[simp] theorem doutSeq_complete (s : State) : s.complete.doutSeq = s.result :=
  doutSeq_of_words rfl rfl

/-- DOUT is zero as a sequence exactly when both of its words are. -/
theorem doutSeq_eq_zero {s : State} (hh : s.doutHi = 0) (hl : s.doutLo = 0) : s.doutSeq = 0 := by
  rw [State.doutSeq, hh, hl]; rfl

end Sys2Proof.Machine
end

