-- ==== Sys2Proof/Laws/Step.lean ====
section
/-! SUPPORT. Everything a command, a host action and a step can do, said once: later proofs take `t` apart by these cases
instead of unfolding the machine. -/

namespace Sys2Proof.Machine

/-! ### ENCRYPT and DECRYPT -/

theorem startCipher_busy {s : State} (op : CipherOp) (h : s.phase = .run) : s.startCipher op = s.collide := by
  simp [State.startCipher, h]

theorem startCipher_accepts {s : State} (op : CipherOp) (h : s.phase = .idle) (hv : s.status.allValid = true) :
    s.startCipher op = s.beginCipher.accept op := by
  simp [State.startCipher, h, hv]

theorem startCipher_refuses {s : State} (op : CipherOp) (h : s.phase = .idle) (hv : s.status.allValid = false) :
    s.startCipher op = s.beginCipher.raiseError preconditionCode := by
  simp [State.startCipher, h, hv]

/-! ### Commands -/

/-- The command of a cipher operation. -/
def commandOf : CipherOp → Instr
  | .enc => .encrypt
  | .dec => .decrypt

/-- What a command can do to a state. -/
inductive CommandEffect : Instr → State → State → Prop where
  | none (s : State) : CommandEffect .nop s s
  | dropped (i : Instr) (s : State) (hi : i ≠ .nop) (h : s.phase = .run) : CommandEffect i s s.collide
  | accepted (op : CipherOp) (s : State) (h : s.phase = .idle) (hv : s.status.allValid = true) :
      CommandEffect (commandOf op) s (s.beginCipher.accept op)
  | refused (op : CipherOp) (s : State) (h : s.phase = .idle) (hv : s.status.allValid = false) :
      CommandEffect (commandOf op) s (s.beginCipher.raiseError preconditionCode)
  | cleared (s : State) (h : s.phase = .idle) : CommandEffect .clear s s.clearAll

theorem startCipher_effect (op : CipherOp) (s : State) : CommandEffect (commandOf op) s (s.startCipher op) := by
  cases h : s.phase with
  | run => rw [startCipher_busy op h]; exact .dropped _ s (by cases op <;> simp [commandOf]) h
  | idle =>
    cases hv : s.status.allValid with
    | true => rw [startCipher_accepts op h hv]; exact .accepted op s h hv
    | false => rw [startCipher_refuses op h hv]; exact .refused op s h hv

/-- Every command ends in a next state, and that state is one of the effects. -/
theorem exec_effect (i : Instr) (s : State) : ∃ t, exec i s = .next t ∧ CommandEffect i s t := by
  cases i with
  | nop => exact ⟨s, rfl, .none s⟩
  | encrypt => exact ⟨_, rfl, startCipher_effect .enc s⟩
  | decrypt => exact ⟨_, rfl, startCipher_effect .dec s⟩
  | clear =>
    cases h : s.phase with
    | run => exact ⟨s.collide, by simp [exec, execClear, h], .dropped _ s (by simp) h⟩
    | idle => exact ⟨s.clearAll, by simp [exec, execClear, h], .cleared s h⟩

theorem effect_of_exec {i : Instr} {s t : State} (h : exec i s = .next t) : CommandEffect i s t := by
  obtain ⟨t', ht, he⟩ := exec_effect i s
  rw [ht] at h
  cases h
  exact he

/-! ### Host actions -/

theorem atOffset_offset (r : Reg) : Reg.atOffset r.offset = some r := by
  cases r <;> rfl

theorem offset_of_atOffset {off : Fin 32} {r : Reg} (h : Reg.atOffset off = some r) : off = r.offset := by
  cases r <;> revert off <;> decide

/-- An admitted access is the 32-bit read or write of its register. -/
theorem admitted_eq_some {a : Access} {r : Reg} (h : a.admitted = some r) :
    a = { off := r.offset, width := 32, kind := a.kind } ∧ a.kind ≠ .fetch := by
  obtain ⟨off, width, kind⟩ := a
  cases kind <;> simp_all [Access.admitted]
  all_goals exact offset_of_atOffset h.2

/-- What one host action, taken from the stream, can do. The state is the one in which the access has been counted. -/
inductive HostEffect : HostAction → State → State → Prop where
  | read (r : Reg) (s : State) : HostEffect (rd r) s (hostRead r s)
  | store (r : Reg) (w : Word) (s : State) (hr : r ≠ .cmd) : HostEffect (wr r w) s (s.writeReg w r)
  | ran (w : Word) (i : Instr) (s t : State) (hw : decode w = .ok i) (he : CommandEffect i s t) :
      HostEffect (wr .cmd w) s t
  | illegal (w : Word) (e : DecodeError) (s : State) (hw : decode w = .error e) :
      HostEffect (wr .cmd w) s (illegalCommand s)
  | required (r : Reg) (mask value : Word) (s : State) :
      HostEffect (.rdRequire r mask value) s (readRequiring r mask value s)
  | waiting (s : State) (hb : s.status.busy = true) :
      HostEffect .wait s (hostRead .status { s with pending := .wait :: s.pending })
  | waited (s : State) (hb : s.status.busy = false) : HostEffect .wait s (hostRead .status s)

theorem toWord_busy (f : Status) : f.toWord.getLsbD 0 = f.busy := by
  rw [Status.toWord, BitVec.getLsbD_append]
  simp

theorem pollStatus_effect (s : State) : HostEffect .wait s (pollStatus s) := by
  unfold pollStatus
  rw [State.readReg, toWord_busy]
  split
  · exact .waiting s ‹_›
  · exact .waited s (Bool.eq_false_iff.mpr ‹_›)

/-- An illegal word is dropped while busy and recorded while idle. -/
theorem illegalCommand_cases (s : State) :
    (s.phase = .run ∧ illegalCommand s = s.collide) ∨ (s.phase = .idle ∧ illegalCommand s = s.raiseError illegalCode) := by
  unfold illegalCommand
  cases h : s.phase <;> simp

theorem busAccess_effect {a : Access} {s t : State} (h : busAccess a s = .next t) : HostEffect (.bus a) s t := by
  cases ha : a.admitted with
  | none => simp [busAccess, ha] at h
  | some r =>
    obtain ⟨e, hk⟩ := admitted_eq_some ha
    obtain ⟨off, width, kind⟩ := a
    simp only [Access.mk.injEq, and_true] at e
    obtain ⟨rfl, rfl⟩ := e
    cases kind with
    | fetch => exact absurd rfl hk
    | read =>
      simp only [busAccess, ha, Host.Outcome.next.injEq] at h
      subst h
      exact .read r s
    | write w =>
      simp only [busAccess, ha] at h
      by_cases hr : r = .cmd
      · subst hr
        simp only [hostWrite, cmdWrite] at h
        split at h
        · exact .ran w _ s t ‹_› (effect_of_exec h)
        · cases h
          exact .illegal w _ s ‹_›
      · have hn : hostWrite r w s = .next (s.writeReg w r) := by cases r <;> first | rfl | exact absurd rfl hr
        rw [hn] at h
        cases h
        exact .store r w s hr

/-- What a host action ends in: a fault of a bus access that is not admitted, the reset, or one of the effects. -/
theorem hostAction_effect {h : HostAction} {s t : State} (ht : hostAction h s = .next t) :
    (h = .reset ∧ t = s.applyReset) ∨ HostEffect h s.tick t := by
  cases h with
  | bus a => exact .inr (busAccess_effect ht)
  | rdRequire r mask value => cases ht; exact .inr (.required r mask value _)
  | wait => cases ht; exact .inr (pollStatus_effect _)
  | reset => cases ht; exact .inl ⟨rfl, rfl⟩

theorem cmdWrite_next (w : Word) (s : State) : ∃ t, cmdWrite w s = .next t := by
  unfold cmdWrite
  split
  · obtain ⟨t, ht, -⟩ := exec_effect _ s
    exact ⟨t, ht⟩
  · exact ⟨_, rfl⟩

theorem busAccess_admitted {a : Access} {r : Reg} (s : State) (ha : a.admitted = some r) :
    ∃ t, busAccess a s = .next t := by
  have hk := (admitted_eq_some ha).2
  unfold busAccess
  rw [ha]
  cases hkind : a.kind with
  | fetch => exact absurd hkind hk
  | read => exact ⟨_, rfl⟩
  | write w =>
    cases r
    case cmd => exact cmdWrite_next w s
    all_goals exact ⟨_, rfl⟩

theorem busAccess_not_admitted {a : Access} (s : State) (ha : a.admitted = none) :
    busAccess a s = .fault (.busFault a.off a.width) := by
  simp [busAccess, ha]

/-- A host action goes on, or is a bus access that is not admitted and faults. -/
theorem hostAction_next_or_fault (h : HostAction) (s : State) :
    (∃ t, hostAction h s = .next t) ∨
      ∃ a, h = .bus a ∧ a.admitted = none ∧ hostAction h s = .fault (.busFault a.off a.width) := by
  cases h with
  | bus a =>
    cases ha : a.admitted with
    | none => exact .inr ⟨a, rfl, ha, busAccess_not_admitted _ ha⟩
    | some r => exact .inl (busAccess_admitted _ ha)
  | rdRequire r mask value => exact .inl ⟨_, rfl⟩
  | wait => exact .inl ⟨_, rfl⟩
  | reset => exact .inl ⟨_, rfl⟩

/-! ### Steps -/

theorem engineTurn_iff (s : State) : engineTurn s = true ↔ s.phase = .run ∧ (s.due = 0 ∨ s.pending = []) := by
  simp [engineTurn]

theorem step_engine {s : State} (h : engineTurn s = true) : step s = .next s.complete := by
  simp [step, h]

theorem step_host {s : State} {h : HostAction} {rest : List HostAction} (he : engineTurn s = false)
    (hp : s.pending = h :: rest) : step s = hostAction h { s with pending := rest } := by
  simp [step, he, hostTurn, hp]

/-- With nothing pending it is the engine's turn, or the block is idle and stays. -/
theorem step_nothing_pending {s : State} (he : engineTurn s = false) (hp : s.pending = []) :
    s.phase = .idle ∧ step s = .next s := by
  refine ⟨?_, by simp [step, he, hostTurn, hp]⟩
  cases hph : s.phase with
  | idle => rfl
  | run => rw [(engineTurn_iff s).mpr ⟨hph, .inr hp⟩] at he; cases he

/-- What a step can do: the completion, nothing, a reset, or the effect of the host's next action. -/
inductive StepEffect : State → State → Prop where
  | completed (s : State) (he : engineTurn s = true) : StepEffect s s.complete
  | idled (s : State) (h : s.phase = .idle) (hp : s.pending = []) : StepEffect s s
  | wasReset (s : State) (rest : List HostAction) (he : engineTurn s = false) (hp : s.pending = .reset :: rest) :
      StepEffect s { s with pending := rest }.applyReset
  | acted (h : HostAction) (s t : State) (rest : List HostAction) (he : engineTurn s = false)
      (hp : s.pending = h :: rest) (ht : HostEffect h { s with pending := rest }.tick t) : StepEffect s t

theorem step_effect {s t : State} (h : step s = .next t) : StepEffect s t := by
  by_cases he : engineTurn s = true
  · rw [step_engine he] at h
    cases h
    exact .completed s he
  · have he' : engineTurn s = false := by simpa using he
    cases hp : s.pending with
    | nil =>
      obtain ⟨hph, hs⟩ := step_nothing_pending he' hp
      rw [hs] at h
      cases h
      exact .idled s hph hp
    | cons a rest =>
      rw [step_host he' hp] at h
      rcases hostAction_effect h with ⟨rfl, rfl⟩ | heff
      · exact .wasReset s rest he' hp
      · exact .acted a s t rest he' hp heff

end Sys2Proof.Machine
end

