-- ==== Sys2Proof/Tests/Slice0.lean ====
section
/-! SUPPORT. The model's own tests: construction checks, decoding, one step per command, the primitives, and a witness for
every obligation that has hypotheses. Expected values are those of spec/95_test_vectors.md and of the worked
examples of the rules, never the model's own. -/

namespace Sys2Proof.Tests

open Sys2Proof Sys2Proof.Machine

/-! ## Small states -/

/-- The reset state after `SETKEY 0x12695BC9B7B7F8` and `SETBLK 0x0123456789ABCDEF`. -/
def ready : State :=
  (((State.reset.writeReg 0x12695BC9 .keyHi).writeReg 0xB7B7F800 .keyLo).writeReg 0x01234567 .dinHi).writeReg
    0x89ABCDEF .dinLo

/-- `ready` with a command in flight that has `due` accesses to go and `pending` to come. -/
def flying (op : CipherOp) (due : Nat) (pending : List HostAction) : State :=
  { ready.startCipher op with due, pending }

/-- `ready` with a collision, an error and a result on record. -/
def marked (coll err : Bool) : State :=
  { ready with status := { ready.status with coll, err, errCode := if err then 2 else 0 } }

/-- What a host reads from a register after an outcome. -/
def readAfter (r : Reg) (o : Host.Outcome State Fault Refusal) : Option Word :=
  match o with
  | .next t => some (t.readReg r)
  | .fault _ => none
  | .refused _ => none

/-- The fault of an outcome. -/
def faultOf (o : Host.Outcome State Fault Refusal) : Option Fault :=
  match o with
  | .next _ => none
  | .fault f => some f
  | .refused _ => none

/-- The state after an outcome that goes on. -/
def stateOf (o : Host.Outcome State Fault Refusal) : State :=
  match o with
  | .next t => t
  | .fault _ => State.reset
  | .refused _ => State.reset

/-! ## Construction checks (40_bit_sequences_and_tables.md R129): an ill-formed table for each, refused by name -/

theorem test_wf_tables : tables.wf = true := by decide +kernel

theorem test_wf_ip_twice : { tables with ip := tables.ip.set 0 1 }.build = .error .ipNotPermutation := by decide +kernel

theorem test_wf_fp_twice : { tables with fp := tables.fp.set 0 1 }.build = .error .fpNotPermutation := by decide +kernel

theorem test_wf_p_zero : { tables with p := tables.p.set 0 0 }.build = .error .pNotPermutation := by decide +kernel

theorem test_wf_fp_other : { tables with fp := tables.ip }.build = .error .fpNotInverseOfIp := by decide +kernel

theorem test_wf_e_range :
    { tables with e := tables.e.set 0 33 }.build = .error .eOutOfRange ∧
    { tables with e := tables.e.set 47 0 }.build = .error .eOutOfRange := by decide +kernel

theorem test_wf_pc1_parity :
    { tables with pc1 := tables.pc1.set 0 64 }.build = .error .pc1Malformed ∧
    { tables with pc1 := tables.pc1.set 0 65 }.build = .error .pc1Malformed ∧
    { tables with pc1 := tables.pc1.set 0 4 }.build = .error .pc1Malformed := by decide +kernel

theorem test_wf_pc2 :
    { tables with pc2 := tables.pc2.set 0 57 }.build = .error .pc2Malformed ∧
    { tables with pc2 := tables.pc2.set 0 32 }.build = .error .pc2Malformed := by decide +kernel

theorem test_wf_sbox_range :
    { tables with s := tables.s.set 7 (sbox8.set 3 (Vector.replicate 16 16)) }.build = .error .sboxOutOfRange := by
  decide +kernel

/-- R120: the schedule of the source; one shift more is refused. -/
theorem test_shift_schedule : shiftOk shiftTable = true ∧ shiftOk (shiftTable.set 0 2) = false := by decide

/-- Every command is well formed: a command word has no operand that could be wrong (30_encoding.md R72). -/
theorem test_wf_commands : ∀ i ∈ [Instr.nop, .encrypt, .decrypt, .clear], i.wf = true := by decide

/-! ## Decoding: RSVD in bits [31:4], OP in bits [3:0] (30_encoding.md R72) -/

theorem test_decode_nop : decode 0b00000000000000000000000000000000 = .ok .nop := by decide

theorem test_decode_encrypt : decode 0b00000000000000000000000000000001 = .ok .encrypt := by decide

theorem test_decode_decrypt : decode 0b00000000000000000000000000000010 = .ok .decrypt := by decide

theorem test_decode_clear : decode 0b00000000000000000000000000000011 = .ok .clear := by decide

/-- 95_test_vectors.md section 7: the illegal words, and the boundaries of R74. -/
theorem test_decode_illegal :
    decode 0x00000004 = .error .reservedOp ∧ decode 0x0000000F = .error .reservedOp ∧
    decode 0x00000010 = .error .reservedBits ∧ decode 0x00000011 = .error .reservedBits ∧
    decode 0x80000001 = .error .reservedBits ∧ decode 0xFFFFFFFF = .error .reservedBits := by decide

theorem test_decode_table_words :
    decodeTableWord 32 0x00000000 = some .nop ∧ decodeTableWord 32 0x00000001 = some .encrypt ∧
    decodeTableWord 32 0x00000002 = some .decrypt ∧ decodeTableWord 32 0x00000003 = some .clear ∧
    decodeTableWord 32 0x00000004 = none ∧ decodeTableWord 40 0x100000001 = none := by decide

/-! ## One step (95_test_vectors.md section 7) -/

/-- From reset, a word as the very next step: what STATUS then reads. -/
def firstWord (w : Nat) : Option Word :=
  readAfter .status (step (State.reset.withFetchWord 32 w))

theorem test_nop : firstWord 0x00000000 = some 0x00000000 ∧
    readAfter .status (cmdWrite 0x00000000 (flying .enc 3 [])) = some 0x00000F01 := by decide

theorem test_encrypt_needs_operands : firstWord 0x00000001 = some 0x00000014 ∧
    readAfter .status (exec .encrypt { ready with status := { ready.status with kvLo := false } }) =
      some 0x00000D14 := by decide

theorem test_encrypt_starts :
    readAfter .status (exec .encrypt ready) = some 0x00000F01 ∧ readAfter .doutHi (exec .encrypt ready) = some 0 ∧
    (stateOf (exec .encrypt ready)).lk = 0x12695BC9B7B7F8 ∧
    (stateOf (exec .encrypt ready)).lb = 0x0123456789ABCDEF := by decide

theorem test_decrypt_needs_operands : firstWord 0x00000002 = some 0x00000014 := by decide

theorem test_decrypt_starts :
    readAfter .status (exec .decrypt (marked true true)) = some 0x00000F09 ∧
    (stateOf (exec .decrypt (marked true true))).lop = .dec := by decide

theorem test_clear :
    readAfter .status (exec .clear (marked true false)) = some 0x00000000 ∧
    readAfter .keyHi (exec .clear (marked true false)) = some 0 := by decide

theorem test_clear_dropped_while_busy :
    readAfter .status (exec .clear (flying .enc 3 [])) = some 0x00000F09 ∧
    readAfter .keyHi (exec .clear (flying .enc 3 [])) = some 0x12695BC9 := by decide

theorem test_illegal_words : ∀ w ∈ [0x4, 0xF, 0x10, 0x11, 0x80000001, 0xFFFFFFFF], firstWord w = some 0x00000024 := by
  decide

theorem test_illegal_while_busy :
    readAfter .status (cmdWrite 0x00000004 (flying .enc 3 [])) = some 0x00000F09 := by decide

theorem test_register_writes :
    readAfter .status (hostWrite .dinHi 0x01234567 State.reset) = some 0x00000400 ∧
    readAfter .status (hostWrite .keyLo 0xB7B7F8FF State.reset) = some 0x00000200 ∧
    readAfter .keyLo (hostWrite .keyLo 0xB7B7F8FF State.reset) = some 0xB7B7F800 ∧
    readAfter .doutHi (hostWrite .doutHi 0x12345678 State.reset) = some 0 ∧
    readAfter .status (hostWrite .status 0xFFFFFFFF State.reset) = some 0 := by decide

theorem test_bus_faults :
    faultOf (busAccess { off := 0x18, width := 8, kind := .write 1 } ready) = some (.busFault 0x18 8) ∧
    faultOf (busAccess { off := 0x02, width := 32, kind := .read } ready) = some (.busFault 0x02 32) ∧
    faultOf (busAccess { off := 0x1C, width := 16, kind := .read } ready) = some (.busFault 0x1C 16) := by decide

theorem test_completion :
    readAfter .status (step (flying .enc 0 [])) = some 0x00000F02 ∧
    readAfter .doutHi (step (flying .enc 0 [])) = some 0x4AD423A8 ∧
    readAfter .doutLo (step (flying .enc 0 [])) = some 0x0F05780A := by decide +kernel

theorem test_reset_aborts :
    readAfter .status (step (flying .enc 3 [.reset])) = some 0 ∧ (stateOf (step (flying .enc 3 [.reset]))).phase = .idle := by
  decide

/-- 30_encoding.md R78: the notation for operands, `SETKEY` with 0 in KEY_LO's reserved byte. -/
theorem test_host_notation :
    setKey 0x12695BC9B7B7F8 = [wr .keyHi 0x12695BC9, wr .keyLo 0xB7B7F800] ∧
    setBlk 0x0123456789ABCDEF = [wr .dinHi 0x01234567, wr .dinLo 0x89ABCDEF] := by decide

/-! ## Primitives, key schedule, round, cipher (95_test_vectors.md sections 3 to 6) -/

theorem test_apply :
    apply (0x0123456789ABCDEF : Bits 64) tables.ip = 0xCC00CCFFF0AAF0AA ∧
    apply (0x8000000000000000 : Bits 64) tables.fp = 0x0000000000000040 ∧
    apply (0x00000001 : Bits 32) tables.e = 0x800000000002 ∧ apply (0x5C82B597 : Bits 32) tables.p = 0x234AA9BB := by
  decide +kernel

theorem test_apply_inverse_refused :
    applyInverse (0 : Bits 48) tables.e = none ∧ applyInverse (0 : Bits 48) tables.pc2 = none := by decide +kernel

theorem test_rotl :
    rotl (0x8000001 : Bits 28) 1 = 0x0000003 ∧ rotl (0xC000000 : Bits 28) 2 = 0x0000003 ∧
    rotl (0xF0CCAAF : Bits 28) 1 = 0xE19955F := by decide +kernel

theorem test_substitute :
    substitute tables 0x6117BA866527 = 0x5C82B597 ∧ substitute tables 0x000000000000 = 0xEFA72C4D ∧
    substitute tables 0xFFFFFFFFFFFF = 0xD9CE3DCB ∧ sboxLookup tables 0 0b011011 = 5 ∧
    sboxLookup tables 1 0b100001 = 13 := by decide +kernel

theorem test_key_schedule :
    pad 0x12695BC9B7B7F8 = 0x123456789ABCDEF0 ∧ preprocess tables 0x12695BC9B7B7F8 = 0xF0CCAAF556678F ∧
    (deriveAllRoundKeys tables 0x12695BC9B7B7F8)[0] = 0x1B02EFFC7072 ∧
    (deriveAllRoundKeys tables 0x12695BC9B7B7F8)[8] = 0xE0DBEBEDE781 ∧
    (deriveAllRoundKeys tables 0x12695BC9B7B7F8)[15] = 0xCB3D8B0E17F5 := by decide +kernel

theorem test_round :
    feistel tables 0xF0AAF0AA 0x1B02EFFC7072 = 0x234AA9BB ∧
    roundFwd tables (0xCC00CCFF, 0xF0AAF0AA) 0x1B02EFFC7072 = (0xF0AAF0AA, 0xEF4A6544) ∧
    roundBwd tables (0xF0AAF0AA, 0xEF4A6544) 0x1B02EFFC7072 = (0xCC00CCFF, 0xF0AAF0AA) := by decide +kernel

theorem test_encrypt_vector :
    encrypt tables 0x0123456789ABCDEF 0x12695BC9B7B7F8 = 0x4AD423A80F05780A ∧
    encrypt tables 0xDEADBEEFCAFEBABE 0x12695BC9B7B7F8 = 0x3EB011B1CBC24217 := by decide +kernel

theorem test_decrypt_vector :
    decrypt tables 0x0123456789ABCDEF 0x12695BC9B7B7F8 = 0xEE39F9448417B215 ∧
    decrypt tables 0xFFFFFFFF00000000 0x00000000000000 = 0xE7E4561988558773 := by decide +kernel

/-- The datapath's reference sequence gives the same, whatever it held before. -/
theorem test_datapath_vector :
    ((ready.dp.run tables .dec 0x12695BC9B7B7F8 0x4AD423A80F05780A).out tables) = 0x0123456789ABCDEF := by decide +kernel

/-- 95_test_vectors.md section 2, with the parity bits of R150. -/
theorem test_textbook_des :
    desEncrypt tables 0x0123456789ABCDEF 0x133457799BBCDFF1 = 0x85E813540F0AB405 ∧
    stripParity 0x133457799BBCDFF1 = 0x12695BC9B7B7F8 := by decide +kernel

theorem test_bit_lists :
    encryptL tables (List.replicate 63 false) (List.replicate 56 false) = .error .preconditionViolation ∧
    encryptL tables (List.replicate 64 false) (List.replicate 64 false) = .error .preconditionViolation ∧
    decryptL tables (List.replicate 64 false) (List.replicate 55 false) = .error .preconditionViolation ∧
    encryptL tables (List.replicate 64 false) (List.replicate 56 false) = .ok 0x4C598ED6C272135B := by decide +kernel

/-! ## Witnesses: for every obligation with hypotheses, values that meet them, clause by clause -/

theorem reset_inv : State.reset.Inv := by
  constructor <;> decide

theorem ready_inv : ready.Inv := by
  constructor <;> decide

theorem flying_inv : (flying .enc 2 [rd .status, .wait]).Inv := by
  constructor <;> decide

theorem witness_DecodeEncodeAgree :
    Instr.clear.wf = true ∧ decode 0x00000003 = .ok .clear := by decide

theorem witness_SequenceElementsAreWordBits : (31 : Nat) < 32 ∧ (23 : Nat) < 32 ∧ (23 : Nat) < 24 := by decide

/-- Serves ResetKeepsHostView too. -/
theorem witness_ResetInputAbortsAndResets :
    (flying .enc 2 [.reset, rd .status]).pending = .reset :: [rd .status] ∧
    engineTurn (flying .enc 2 [.reset, rd .status]) = false := by decide

/-- The register last in the window, one that a read finds hard-wired, and a busy state. -/
theorem witness_ReadsReturnRegisters :
    (((0x1C : Fin 32), ready.status.toWord) ∈ [((0x18 : Fin 32), (0x00000000 : Word)), (0x1C, ready.status.toWord)]) ∧
    (flying .enc 2 [rd .status, .wait]).Inv ∧ (flying .enc 2 [rd .status, .wait]).status.busy = true :=
  ⟨by decide, flying_inv, by decide⟩

/-- A stored, an ignored and another register; and a state in which ENCRYPT can be written twice. -/
theorem witness_WriteThenReadBack :
    (Reg.keyLo ≠ .cmd ∧ Reg.keyHi ≠ .keyLo ∧ Reg.keyHi ≠ .status) ∧
    (Reg.status ≠ .cmd ∧ (Reg.status = .doutHi ∨ Reg.status = .doutLo ∨ Reg.status = .status)) ∧
    ready.phase = .idle ∧ ready.status.allValid = true ∧ ready.status.coll = false := by decide

/-- Each reason of its own; and the last register, read and written, with none of them. -/
theorem witness_BusFaultExactlyWhenNotAdmitted :
    (({ off := 0x18, width := 31, kind := .read } : Access).width ≠ 32) ∧
    (({ off := 0x1F, width := 32, kind := .read } : Access).off.val % 4 ≠ 0) ∧
    (({ off := 0x00, width := 32, kind := .fetch } : Access).kind = .fetch) ∧
    ∀ k ∈ [AccessKind.read, .write 1],
      ¬ (({ off := 0x1C, width := 32, kind := k } : Access).width ≠ 32 ∨
        ({ off := 0x1C, width := 32, kind := k } : Access).off.val % 4 ≠ 0 ∨
        ({ off := 0x1C, width := 32, kind := k } : Access).kind = .fetch) := by decide

theorem witness_WindowDecodesBase :
    Config.base + 32 < Config.base ∨ Config.base + 32 ≤ Config.base + 32 :=
  .inr (Nat.le_refl _)

/-- Serves DECRYPT too. -/
theorem witness_EncryptStartsOrRefuses :
    (ready.phase = .idle ∧ ready.status.kvHi = true ∧ ready.status.kvLo = true ∧ ready.status.dvHi = true ∧
      ready.status.dvLo = true) ∧
    State.reset.phase = .idle ∧ ¬ (State.reset.status.kvHi = true ∧ State.reset.status.kvLo = true ∧
      State.reset.status.dvHi = true ∧ State.reset.status.dvLo = true) := by decide

theorem witness_PreconditionViolationRecorded :
    (Instr.decrypt = .encrypt ∨ Instr.decrypt = .decrypt) ∧ State.reset.phase = .idle ∧
    State.reset.status.allValid = false ∧ State.reset.Inv :=
  ⟨by decide, by decide, by decide, reset_inv⟩

theorem witness_ClearResetsIdleBlock :
    (marked true false).phase = .idle ∧ (flying .enc 2 []).phase = .run ∧
    exec .clear (marked true false) = .next (marked true false).clearAll ∧
    (marked true false).status.coll = true ∧ (marked true false).clearAll.status.coll = false :=
  ⟨by decide, by decide, rfl, by decide, by decide⟩

theorem witness_IllegalWordRecorded :
    decode 0x00000004 = .error .reservedOp ∧ decode 0xFFFFFFFF = .error .reservedBits ∧
    ready.phase = .idle := by decide

theorem witness_BusyWordsOnlyCollide : (flying .dec 2 []).phase = .run := by decide

/-- The fields of the words on both sides of each bound. -/
theorem witness_CmdWriteChecksInOrder :
    (flying .dec 2 []).phase = .run ∧ State.reset.phase = .idle ∧ State.reset.status.allValid = false ∧
    (0x00000010 : Word).extractLsb' 4 28 ≠ 0 ∧ 4 ≤ ((0x00000004 : Word).extractLsb' 0 4).toNat ∧
    ∀ k ∈ [0, 1, 2, 3],
      ¬ ((BitVec.ofNat 32 k).extractLsb' 4 28 ≠ 0 ∨ 4 ≤ ((BitVec.ofNat 32 k).extractLsb' 0 4).toNat) ∧
      ((BitVec.ofNat 32 k).extractLsb' 0 4).toNat = k := by decide

/-- A command for each clause: NOP, one while busy, a refused and an accepted one, CLEAR. -/
theorem witness_CommandFrames :
    exec .nop ready = .next ready ∧
    ((flying .enc 2 []).phase = .run ∧ exec .decrypt (flying .enc 2 []) = .next (flying .enc 2 []).collide) ∧
    (exec .encrypt State.reset = .next (State.reset.startCipher .enc) ∧
      (State.reset.startCipher .enc).phase = State.reset.phase) ∧
    exec .encrypt ready = .next (ready.startCipher .enc) ∧
    exec .clear ready = .next ready.clearAll :=
  ⟨rfl, ⟨by decide, rfl⟩, ⟨rfl, by decide⟩, rfl, rfl⟩

theorem witness_CompletionWritesResult :
    (engineTurn (flying .enc 0 [rd .status]) = true ∧ (flying .enc 0 [rd .status]).lop = .enc) ∧
    (engineTurn (flying .dec 9 []) = true ∧ (flying .dec 9 []).lop = .dec) := by decide

theorem witness_AcceptedCommandCompletes :
    (flying .enc 2 [rd .status, command .clear, .wait]).phase = .run ∧
    ∀ h ∈ (flying .enc 2 [rd .status, command .clear, .wait]).pending, h.harmless = true := by decide

theorem witness_WaitEnds :
    (flying .enc 0 [.wait, rd .doutHi]).Inv ∧
    (flying .enc 0 [.wait, rd .doutHi]).pending = .wait :: [rd .doutHi] :=
  ⟨by constructor <;> decide, rfl⟩

theorem witness_EveryAdmittedProgramEnds :
    (flying .enc 2 [rd .status, .wait]).Inv ∧
    (∀ h ∈ (flying .enc 2 [rd .status, .wait]).pending, h = .reset ∨ h.harmless = true) ∧
    ∃ before, (flying .enc 2 [rd .status, .wait]).pending = before ++ [.wait] :=
  ⟨flying_inv, by decide, [rd .status], rfl⟩

theorem witness_StepKeepsBlockInvariant :
    (flying .enc 0 []).Inv ∧ step (flying .enc 0 []) = .next (flying .enc 0 []).complete :=
  ⟨by constructor <;> decide, rfl⟩

theorem witness_StepStopsOnlyByBusFault :
    step { ready with pending := [.bus { off := 0x18, width := 8, kind := .write 1 }] } = .fault (.busFault 0x18 8) := by
  rfl

theorem witness_StepRunsDecodedCommand :
    { ready with pending := [command .encrypt, .wait] }.pending =
      .bus { off := 0x18, width := 32, kind := .write 0x00000001 } :: [.wait] ∧
    decode 0x00000001 = .ok .encrypt ∧ engineTurn { ready with pending := [command .encrypt, .wait] } = false ∧
    engineTurn (flying .dec 1 [command .encrypt]) = false := by decide

theorem witness_FetchWordRunsNext : ready.phase = .idle ∧ (flying .dec 0 []).phase = .run := by decide

theorem witness_IdleBlockMakesNoMove : ready.phase = .idle ∧ ready.pending = [] := by decide

/-- COLL cleared by CLEAR and by reset, and set by a dropped DECRYPT. -/
theorem witness_CollisionFlagSticky :
    ∃ t u v : State,
      (step { marked true false with pending := [command .clear] } = .next t ∧ t.status.coll = false) ∧
      (step { marked true false with pending := [.reset] } = .next u ∧ u.status.coll = false) ∧
      (marked true false).status.coll = true ∧
      step (flying .enc 2 [command .decrypt]) = .next v ∧ (flying .enc 2 [command .decrypt]).status.coll = false ∧
      v.status.coll = true :=
  ⟨_, _, _, ⟨rfl, rfl⟩, ⟨rfl, rfl⟩, rfl, rfl, rfl, rfl⟩

theorem witness_ErrorPersistsUntilNextCommand :
    ∃ t : State, step { marked false true with pending := [wr .cmd 0x00000004] } = .next t ∧
      (marked false true).status.err = true :=
  ⟨_, rfl, rfl⟩

/-- Each operand register and its flag, and a write to it. -/
theorem witness_OperandsChangeOnlyByWriteClearReset :
    ∃ t : State, step { State.reset with pending := [wr .keyLo 0xB7B7F8FF] } = .next t ∧
      ((Reg.keyLo, Status.kvLo) = (.keyHi, Status.kvHi) ∨ (Reg.keyLo, Status.kvLo) = (.keyLo, Status.kvLo)) :=
  ⟨_, rfl, .inr rfl⟩

theorem witness_DoutChangesOnlyByBlock :
    ∃ t : State, step (flying .enc 0 []) = .next t :=
  ⟨_, rfl⟩

/-- The engine starts, and ends by completion and by reset. -/
theorem witness_PhaseChangesOnlyByAcceptCompleteReset :
    ∃ t u v : State,
      (step { ready with pending := [command .encrypt] } = .next t ∧ ready.phase = .idle ∧ t.phase = .run) ∧
      (step (flying .enc 0 []) = .next u ∧ (flying .enc 0 []).phase = .run ∧ u.phase = .idle) ∧
      step (flying .enc 2 [.reset]) = .next v ∧ v.phase = .idle :=
  ⟨_, _, _, ⟨rfl, rfl, rfl⟩, ⟨rfl, rfl, rfl⟩, rfl, rfl⟩

/-- Two different states with one view; one that steps and one that faults. -/
theorem witness_HiddenStateNeverShows :
    (ready.SameView { ready with lop := .dec, lk := 1, lb := 1 } ∧ ready ≠ { ready with lop := .dec, lk := 1, lb := 1 }) ∧
    (∃ t : State, step ready = .next t) ∧
    step { ready with pending := [.bus { off := 2, width := 32, kind := .read }] } = .fault (.busFault 2 32) :=
  ⟨⟨⟨rfl, by decide⟩, by decide⟩, ⟨_, rfl⟩, rfl⟩

/-- For every statement about tables that pass the construction checks. -/
theorem witness_tables_wf : tables.wf = true :=
  test_wf_tables

theorem witness_ApplyInverseUndoesApply :
    isPermutation tables.e = false ∧ isPermutation tables.ip = true := by decide +kernel

theorem witness_RotationsCompose : (27 : Nat) < 28 := by decide

theorem witness_BitListFormsCheckLengthsFirst :
    ((List.replicate 63 false).length ≠ 64 ∨ (List.replicate 56 false).length ≠ 56) ∧
    ((List.replicate 64 true).length ≠ 64 ∨ (List.replicate 57 true).length ≠ 56) ∧
    tables.wf = true ∧ (List.replicate 64 true).length = 64 ∧ (List.replicate 56 true).length = 56 :=
  ⟨by decide, by decide, test_wf_tables, by decide, by decide⟩

end Sys2Proof.Tests
end

section
/-! PROOFS. The block's state (10_state.md): what a host write stores, what one action of the host does to the block,
the block invariant, and what no access can read. -/

namespace Sys2Proof.Machine

/-! ### Words of the register window -/

/-- Sequence elements are word bits, for the key, the block and the result (10_state.md R37 to R39). Settles O6. -/
theorem sequenceElementsAreWordBits : Obligations.SequenceElementsAreWordBits := by
  intro s out j hj
  have hlo : ¬ 32 ≤ j := by omega
  refine ⟨?key, fun hj24 => ?keyLo, ?block, ?blockLo, ?out, ?outLo⟩
  case key => simp [State.readReg, getLsbD_word _ hj, hlo]
  case keyLo =>
    have : ¬ 24 ≤ j := by omega
    simp [State.readReg, getLsbD_word _ hj, getMsbD_keyLoWord, this]
  case block => simp [State.readReg, getLsbD_word _ hj, hlo]
  case blockLo => simp [State.readReg, getLsbD_word _ hj]
  case out => simp [State.readReg, getLsbD_word _ hj, hiWordOf_eq, hj]
  case outLo => simp [State.readReg, getLsbD_word _ hj, loWordOf_eq, hj]

/-- The reserved byte of KEY_LO (10_state.md R23). -/
theorem keyLoWord_lowByte (s : State) : s.keyLoWord.extractLsb' 0 8 = 0 :=
  BitVec.extractLsb'_append_eq_right

/-- The reserved bits of STATUS (10_state.md R29): the extract passes over every field below them. -/
theorem toWord_reserved (f : Status) : f.toWord.extractLsb' 12 20 = 0 := by
  rw [Status.toWord]
  repeat rw [BitVec.extractLsb'_append_eq_of_le (by decide)]
  simp

/-- Settles O8. -/
theorem reservedFieldsReadZero : Obligations.ReservedFieldsReadZero :=
  fun s => ⟨keyLoWord_lowByte s, rfl, toWord_reserved s.status⟩

/-- Settles O9. -/
theorem resetStateValues : Obligations.ResetStateValues :=
  ⟨fun r => by cases r <;> rfl, rfl, rfl, rfl, rfl⟩

/-! ### A host write to an operand register -/

theorem State.writeReg_keyHi (s : State) (w : Word) (r : Reg) :
    (s.writeReg w r).keyHi = if r = .keyHi then w else s.keyHi := by cases r <;> rfl
theorem State.writeReg_keyLo (s : State) (w : Word) (r : Reg) :
    (s.writeReg w r).keyLo = if r = .keyLo then keyLoField w else s.keyLo := by cases r <;> rfl
theorem State.writeReg_dinHi (s : State) (w : Word) (r : Reg) :
    (s.writeReg w r).dinHi = if r = .dinHi then w else s.dinHi := by cases r <;> rfl
theorem State.writeReg_dinLo (s : State) (w : Word) (r : Reg) :
    (s.writeReg w r).dinLo = if r = .dinLo then w else s.dinLo := by cases r <;> rfl

/-- A write sets the valid flag of its register and no other flag (10_state.md R35). -/
theorem State.writeReg_status (s : State) (w : Word) (r : Reg) :
    (s.writeReg w r).status = { s.status with
      kvHi := decide (r = .keyHi) || s.status.kvHi, kvLo := decide (r = .keyLo) || s.status.kvLo
      dvHi := decide (r = .dinHi) || s.status.dvHi, dvLo := decide (r = .dinLo) || s.status.dvLo } := by
  cases r <;> rfl

theorem Status.allValid_iff (f : Status) :
    f.allValid = true ↔ f.kvHi = true ∧ f.kvLo = true ∧ f.dvHi = true ∧ f.dvLo = true := by
  simp [Status.allValid, and_assoc]

/-- A write leaves every other register as it was, STATUS aside. -/
theorem readReg_writeReg_of_ne (s : State) (w : Word) {q r : Reg} (hq : q ≠ r) (hs : q ≠ .status) :
    (s.writeReg w r).readReg q = s.readReg q := by
  have hr : r ≠ q := hq.symm
  cases q with
  | status => exact absurd rfl hs
  | keyHi => simp [State.readReg, State.writeReg_keyHi, hr]
  | keyLo => simp [State.readReg, State.keyLoWord, State.writeReg_keyLo, hr]
  | dinHi => simp [State.readReg, State.writeReg_dinHi, hr]
  | dinLo => simp [State.readReg, State.writeReg_dinLo, hr]
  | doutHi | doutLo | cmd => simp [State.readReg]

/-- A write on top of the same write stores nothing new (20_memory.md R57). -/
theorem writeReg_writeReg (s : State) (w : Word) (r : Reg) : (s.writeReg w r).writeReg w r = s.writeReg w r := by
  cases r <;> rfl

theorem writeReg_ignored (s : State) (w : Word) {r : Reg} (h : r = .doutHi ∨ r = .doutLo ∨ r = .status) :
    s.writeReg w r = s := by
  rcases h with rfl | rfl | rfl <;> rfl

theorem busAccess_write (s : State) (w : Word) {r : Reg} (hr : r ≠ .cmd) :
    busAccess { off := r.offset, width := 32, kind := .write w } s = .next (s.writeReg w r) := by
  cases r with
  | cmd => exact absurd rfl hr
  | _ => rfl

theorem busAccess_encrypt (s : State) :
    busAccess { off := 0x18, width := 32, kind := .write 0x00000001 } s = .next (s.startCipher .enc) := rfl

/-- ENCRYPT written twice: the first is accepted, the second collides with it (20_memory.md R57). -/
theorem startCipher_twice {s : State} (op : CipherOp) (h : s.phase = .idle) (hv : s.status.allValid = true) :
    (s.startCipher op).startCipher op = (s.beginCipher.accept op).collide := by
  rw [startCipher_accepts op h hv, startCipher_busy op (State.accept_phase _ op)]

/-- A write is read back, and writing twice is writing once, except at CMD. Settles O14. -/
theorem writeThenReadBack : Obligations.WriteThenReadBack := by
  refine ⟨fun s w r hr => ⟨s.writeReg w r, busAccess_write s w hr, ?read, writeReg_ignored s w, ?others, ?again⟩,
    fun s h hv hc => ⟨_, _, busAccess_encrypt s, ?accepted, busAccess_encrypt _, ?collided⟩⟩
  case read =>
    cases r with
    | keyLo => exact keyLoField_read w
    | cmd => exact absurd rfl hr
    | _ => rfl
  case others => exact fun q hq hs => readReg_writeReg_of_ne s w hq hs
  case again => rw [busAccess_write _ w hr, writeReg_writeReg]
  case accepted => rw [startCipher_accepts .enc h hv]; exact hc
  case collided => rw [startCipher_twice .enc h hv]; rfl

/-! ### What a step does to the block -/

theorem encode_of_decode {w : Word} {i : Instr} (h : decode w = .ok i) : encode i = w := by
  rw [decode_eq] at h
  apply BitVec.eq_of_toNat_eq
  split_ifs at h <;> cases h <;> simp [encode, *]

theorem encode_ne_zero {i : Instr} (h : i ≠ .nop) : encode i ≠ 0 := by
  cases i with
  | nop => exact absurd rfl h
  | _ => decide

theorem ne_zero_of_decode_error {w : Word} {e : DecodeError} (h : decode w = .error e) : w ≠ 0 := by
  rintro rfl
  cases h

theorem commandOf_ne_nop (op : CipherOp) : commandOf op ≠ .nop := by cases op <;> decide

/-- What an action of the host that is no reset does to the block, the host's own fields aside. -/
inductive BlockEffect : HostAction → State → State → Prop where
  | unchanged (h : HostAction) (s : State) (pending : List HostAction) (readBack : List Word) (reqMet : Bool) :
      BlockEffect h s { s with pending, readBack, reqMet }
  | stored (r : Reg) (w : Word) (s : State) (hr : r ≠ .cmd) : BlockEffect (wr r w) s (s.writeReg w r)
  | dropped (w : Word) (s : State) (hw : w ≠ 0) (hp : s.phase = .run) : BlockEffect (wr .cmd w) s s.collide
  | recorded (w : Word) (e : DecodeError) (s : State) (hw : decode w = .error e) (hp : s.phase = .idle) :
      BlockEffect (wr .cmd w) s (s.raiseError illegalCode)
  | accepted (op : CipherOp) (s : State) (hp : s.phase = .idle) (hv : s.status.allValid = true) :
      BlockEffect (command (commandOf op)) s (s.beginCipher.accept op)
  | refused (op : CipherOp) (s : State) (hp : s.phase = .idle) (hv : s.status.allValid = false) :
      BlockEffect (command (commandOf op)) s (s.beginCipher.raiseError preconditionCode)
  | cleared (s : State) (hp : s.phase = .idle) : BlockEffect (command .clear) s s.clearAll

theorem blockEffect_of_command {i : Instr} {s t : State} (e : CommandEffect i s t) : BlockEffect (command i) s t := by
  cases e with
  | none => exact .unchanged _ s _ _ _
  | dropped _ _ hi hp => exact .dropped _ s (encode_ne_zero hi) hp
  | accepted op _ hp hv => exact .accepted op s hp hv
  | refused op _ hp hv => exact .refused op s hp hv
  | cleared _ hp => exact .cleared s hp

theorem blockEffect_of_host {h : HostAction} {s t : State} (e : HostEffect h s t) : BlockEffect h s t := by
  cases e with
  | store r w _ hr => exact .stored r w s hr
  | ran w i _ _ hw he => exact encode_of_decode hw ▸ blockEffect_of_command he
  | illegal w e _ hw =>
    obtain ⟨hp, ht⟩ | ⟨hp, ht⟩ := illegalCommand_cases s
    · exact ht ▸ .dropped w s (ne_zero_of_decode_error hw) hp
    · exact ht ▸ .recorded w e s hw hp
  | read | required | waiting | waited => exact .unchanged _ s _ _ _

/-- A step is the completion, nothing, a reset, or the effect of the host's next action, taken from the stream and
counted against a command in flight. -/
theorem step_blockEffect {s t : State} (h : step s = .next t) :
    (engineTurn s = true ∧ t = s.complete) ∨ t = s ∨
      (∃ rest, s.pending = .reset :: rest ∧ t = { s with pending := rest }.applyReset) ∨
      ∃ a rest due, s.pending = a :: rest ∧ BlockEffect a { s with pending := rest, due } t := by
  cases step_effect h with
  | completed _ he => exact .inl ⟨he, rfl⟩
  | idled => exact .inr (.inl rfl)
  | wasReset _ rest _ hp => exact .inr (.inr (.inl ⟨rest, hp, rfl⟩))
  | acted a _ _ rest _ hp e =>
    obtain ⟨due, hd⟩ := State.tick_eq { s with pending := rest }
    exact .inr (.inr (.inr ⟨a, rest, due, hp, hd ▸ blockEffect_of_host e⟩))

/-! ### The block invariant -/

/-- The invariant speaks of the block only, so the host's own fields and the datapath do not matter. -/
theorem State.Inv.hostFields {s : State} (h : s.Inv) (dp : Datapath) (pending : List HostAction) (readBack : List Word)
    (reqMet : Bool) (serial due : Nat) : State.Inv { s with dp, pending, readBack, reqMet, serial, due } :=
  { h with }

theorem State.Inv.collide {s : State} (h : s.Inv) : s.collide.Inv :=
  { h with }

theorem State.Inv.reset : State.reset.Inv where
  busy_iff_run := by decide
  run_quiet := nofun
  run_valid := nofun
  run_dout := nofun
  done_or_err := by decide
  done_result := nofun
  no_err_code _ := rfl
  err_code := nofun
  precondition_dout _ := ⟨rfl, rfl⟩
  unwritten_zero := ⟨fun _ => rfl, fun _ => rfl, fun _ => rfl, fun _ => rfl⟩

theorem State.Inv.applyReset (s : State) : s.applyReset.Inv :=
  State.Inv.reset.hostFields _ _ _ _ _ _

/-- CLEAR while idle leaves the block as reset does. -/
theorem State.Inv.clearAll {s : State} (hp : s.phase = .idle) : s.clearAll.Inv := by
  have : s.clearAll = { State.reset with
      dp := s.dp, pending := s.pending, readBack := s.readBack, reqMet := s.reqMet
      serial := s.serial, due := s.due } := by
    simp [State.clearAll, State.reset, hp]
  exact this ▸ State.Inv.reset.hostFields _ _ _ _ _ _

/-- An operand write only raises a valid flag and fills the register that the flag vouches for. -/
theorem State.Inv.writeReg {s : State} (h : s.Inv) (w : Word) (r : Reg) : (s.writeReg w r).Inv where
  busy_iff_run := by simpa [State.writeReg_status] using h.busy_iff_run
  run_quiet := by simpa [State.writeReg_status] using h.run_quiet
  run_valid hr := by
    have hv := (Status.allValid_iff _).mp (h.run_valid (by simpa using hr))
    simp [Status.allValid_iff, State.writeReg_status, hv]
  run_dout := by simpa using h.run_dout
  done_or_err := by simpa [State.writeReg_status] using h.done_or_err
  done_result := by simpa [State.writeReg_status, State.doutSeq, State.result] using h.done_result
  no_err_code := by simpa [State.writeReg_status] using h.no_err_code
  err_code := by simpa [State.writeReg_status] using h.err_code
  precondition_dout := by simpa [State.writeReg_status] using h.precondition_dout
  unwritten_zero := by
    obtain ⟨h1, h2, h3, h4⟩ := h.unwritten_zero
    simp +contextual [State.writeReg_status, State.writeReg_keyHi, State.writeReg_keyLo, State.writeReg_dinHi,
      State.writeReg_dinLo, h1, h2, h3, h4]

/-- Recording an error while idle: DONE falls, so only the code and what it says of DOUT are left to show. -/
theorem State.Inv.raiseError {s : State} (h : s.Inv) (hp : s.phase = .idle) {code : BitVec 4}
    (hc : code = preconditionCode ∨ code = illegalCode)
    (hz : code = preconditionCode → s.doutHi = 0 ∧ s.doutLo = 0) : (s.raiseError code).Inv :=
  { h with
    run_quiet := by simp [hp]
    done_or_err := by simp
    done_result := by simp
    no_err_code := by simp
    err_code := fun _ => hc
    precondition_dout := hz }

theorem State.Inv.beginCipher {s : State} (h : s.Inv) : s.beginCipher.Inv :=
  { h with
    run_quiet := fun _ => ⟨rfl, rfl⟩
    run_dout := fun _ => ⟨rfl, rfl⟩
    done_or_err := by simp
    done_result := by simp
    no_err_code := fun _ => rfl
    err_code := by simp
    precondition_dout := fun _ => ⟨rfl, rfl⟩ }

/-- Acceptance comes after `beginCipher`, which has cleared DONE, ERR and DOUT. -/
theorem State.Inv.accept {s : State} (h : s.Inv) (op : CipherOp) (hv : s.status.allValid = true) :
    (s.beginCipher.accept op).Inv :=
  { h.beginCipher with
    busy_iff_run := by simp
    run_quiet := fun _ => ⟨rfl, rfl⟩
    run_valid := fun _ => hv
    run_dout := fun _ => ⟨rfl, rfl⟩
    done_result := by simp }

/-- Completion leaves RUN, where ERR was 0, and writes the result that DONE then vouches for. -/
theorem State.Inv.complete {s : State} (h : s.Inv) (hp : s.phase = .run) : s.complete.Inv :=
  have herr : s.status.err = false := (h.run_quiet hp).2
  { h with
    busy_iff_run := by simp
    run_quiet := by simp
    run_valid := by simp
    run_dout := by simp
    done_or_err := by simp [herr]
    done_result := fun _ => doutSeq_complete s
    precondition_dout := by simp [h.no_err_code herr, preconditionCode] }

theorem BlockEffect.inv {a : HostAction} {s t : State} (e : BlockEffect a s t) (h : s.Inv) : t.Inv := by
  cases e with
  | unchanged => exact h.hostFields _ _ _ _ _ _
  | stored r w => exact h.writeReg w r
  | dropped => exact h.collide
  | recorded _ _ _ _ hp => exact h.raiseError hp (.inr rfl) fun hc => absurd hc (by decide)
  | accepted op _ _ hv => exact h.accept op hv
  | refused _ _ hp => exact h.beginCipher.raiseError hp (.inl rfl) fun _ => ⟨rfl, rfl⟩
  | cleared _ hp => exact State.Inv.clearAll hp

/-- Settles O33. -/
theorem resetMeetsBlockInvariant : Obligations.ResetMeetsBlockInvariant :=
  State.Inv.reset

/-- Settles O34, by the cases of a step. -/
theorem stepKeepsBlockInvariant : Obligations.StepKeepsBlockInvariant := by
  intro s t h hs
  obtain ⟨he, rfl⟩ | rfl | ⟨rest, -, rfl⟩ | ⟨a, rest, due, -, e⟩ := step_blockEffect hs
  · exact h.complete ((engineTurn_iff s).mp he).1
  · exact h
  · exact State.Inv.applyReset _
  · exact e.inv (h.hostFields _ _ _ _ _ _)

/-! ### What changes COLL, the operands, DOUT and the phase -/

theorem BlockEffect.coll {a : HostAction} {s t : State} (e : BlockEffect a s t) :
    t.status.coll = s.status.coll ∨
      (s.phase = .idle ∧ a = command .clear ∧ t.status.coll = false) ∨
      (s.phase = .run ∧ t.status.coll = true ∧ ∃ w, w ≠ 0 ∧ a = wr .cmd w) := by
  cases e with
  | dropped w _ hw hp => exact .inr (.inr ⟨hp, rfl, w, hw, rfl⟩)
  | cleared _ hp => exact .inr (.inl ⟨hp, rfl, rfl⟩)
  | stored => simp [State.writeReg_status]
  | unchanged | recorded | accepted | refused => exact .inl rfl

/-- Settles O39. -/
theorem collisionFlagSticky : Obligations.CollisionFlagSticky := by
  intro s t hs
  obtain ⟨-, rfl⟩ | rfl | ⟨rest, hp, rfl⟩ | ⟨a, rest, due, hp, e⟩ := step_blockEffect hs
  · simp +contextual
  · simp +contextual
  · exact ⟨fun _ _ => ⟨rest, .inl hp⟩, nofun⟩
  · obtain hc | ⟨hi, rfl, hc⟩ | ⟨hr, hc, w, hw, rfl⟩ := e.coll
    · simp +contextual [hc]
    · exact ⟨fun _ _ => ⟨rest, .inr ⟨hi, hp⟩⟩, by simp [hc]⟩
    · exact ⟨by simp [hc], fun _ _ => ⟨hr, w, rest, hw, hp⟩⟩

/-- An operand register and its valid flag (10_state.md R35). -/
def IsOperand (r : Reg) (flag : Status → Bool) : Prop :=
  (r, flag) = (.keyHi, Status.kvHi) ∨ (r, flag) = (.keyLo, Status.kvLo) ∨
    (r, flag) = (.dinHi, Status.dvHi) ∨ (r, flag) = (.dinLo, Status.dvLo)

/-- The operand registers and their valid flags. -/
def State.operands (s : State) : (Word × Bits 24 × Word × Word) × (Bool × Bool × Bool × Bool) :=
  ((s.keyHi, s.keyLo, s.dinHi, s.dinLo), (s.status.kvHi, s.status.kvLo, s.status.dvHi, s.status.dvLo))

theorem operand_of_operands_eq {s t : State} (h : t.operands = s.operands) {r : Reg} {flag : Status → Bool}
    (hr : IsOperand r flag) : t.readReg r = s.readReg r ∧ flag t.status = flag s.status := by
  simp only [State.operands, Prod.mk.injEq] at h
  rcases hr with e | e | e | e <;> cases e <;> simp [State.readReg, State.keyLoWord, h]

theorem flag_writeReg {r : Reg} {flag : Status → Bool} (hr : IsOperand r flag) (s : State) (w : Word) (q : Reg) :
    flag (s.writeReg w q).status = (decide (q = r) || flag s.status) := by
  rcases hr with e | e | e | e <;> cases e <;> simp [State.writeReg_status]

theorem readReg_writeReg_operand {r : Reg} {flag : Status → Bool} (hr : IsOperand r flag) (s : State) (w : Word) :
    (s.writeReg w r).readReg r = if r = .keyLo then w &&& 0xFFFFFF00 else w := by
  rcases hr with e | e | e | e <;> cases e
  case inr.inl => exact keyLoField_read w
  all_goals rfl

theorem IsOperand.ne_status {r : Reg} {flag : Status → Bool} (hr : IsOperand r flag) : r ≠ .status := by
  rcases hr with e | e | e | e <;> cases e <;> decide

theorem BlockEffect.operands {a : HostAction} {s t : State} (e : BlockEffect a s t) :
    t.operands = s.operands ∨ (s.phase = .idle ∧ a = command .clear) ∨
      ∃ r w, a = wr r w ∧ t = s.writeReg w r := by
  cases e with
  | stored r w => exact .inr (.inr ⟨r, w, rfl, rfl⟩)
  | cleared _ hp => exact .inr (.inl ⟨hp, rfl⟩)
  | unchanged | dropped | recorded | accepted | refused => exact .inl rfl

/-- Settles O41. -/
theorem operandsChangeOnlyByWriteClearReset : Obligations.OperandsChangeOnlyByWriteClearReset := by
  intro s t hs
  obtain ⟨-, rfl⟩ | rfl | ⟨rest, hp, rfl⟩ | ⟨a, rest, due, hp, e⟩ := step_blockEffect hs
  · exact .inr fun r flag hr => .inl (operand_of_operands_eq (s := s) (t := s.complete) rfl hr)
  · exact .inr fun r flag hr => .inl ⟨rfl, rfl⟩
  · exact .inl ⟨rest, .inl hp⟩
  · obtain h | ⟨hi, rfl⟩ | ⟨q, w, rfl, rfl⟩ := e.operands
    · exact .inr fun r flag hr => .inl (operand_of_operands_eq h hr)
    · exact .inl ⟨rest, .inr ⟨hi, hp⟩⟩
    · refine .inr fun r flag hr => ?_
      by_cases hq : q = r
      · subst hq
        exact .inr ⟨w, rest, hp, by simp [flag_writeReg hr], readReg_writeReg_operand hr _ w⟩
      · exact .inl ⟨readReg_writeReg_of_ne _ w (Ne.symm hq) (IsOperand.ne_status hr),
          by simp [flag_writeReg hr, hq]⟩

theorem BlockEffect.dout {a : HostAction} {s t : State} (e : BlockEffect a s t) :
    t.doutSeq = s.doutSeq ∨ (t.doutSeq = 0 ∧ s.phase = .idle ∧ ∃ i, i ≠ .nop ∧ a = command i) := by
  cases e with
  | accepted op _ hp | refused op _ hp => exact .inr ⟨doutSeq_eq_zero rfl rfl, hp, _, commandOf_ne_nop op, rfl⟩
  | cleared _ hp => exact .inr ⟨doutSeq_eq_zero rfl rfl, hp, .clear, by decide, rfl⟩
  | stored => simp [State.doutSeq]
  | unchanged | dropped | recorded => exact .inl rfl

/-- Settles O42. -/
theorem doutChangesOnlyByBlock : Obligations.DoutChangesOnlyByBlock := by
  intro s t hs
  obtain ⟨he, rfl⟩ | rfl | ⟨rest, hp, rfl⟩ | ⟨a, rest, due, hp, e⟩ := step_blockEffect hs
  · exact .inr (.inl ⟨he, doutSeq_complete s⟩)
  · exact .inl rfl
  · exact .inr (.inr ⟨doutSeq_eq_zero rfl rfl, rest, .inl hp⟩)
  · obtain h | ⟨h, hi, i, hn, rfl⟩ := e.dout
    · exact .inl h
    · exact .inr (.inr ⟨h, rest, .inr ⟨hi, i, hn, hp⟩⟩)

theorem BlockEffect.phase {a : HostAction} {s t : State} (e : BlockEffect a s t) :
    t.phase = s.phase ∨
      (s.phase = .idle ∧ t.phase = .run ∧ s.status.allValid = true ∧ ∃ op, a = command (commandOf op)) := by
  cases e with
  | accepted op _ hp hv => exact .inr ⟨hp, rfl, hv, op, rfl⟩
  | stored r w => exact .inl (State.writeReg_phase s w r)
  | unchanged | dropped | recorded | refused | cleared => exact .inl rfl

/-- Settles O43. -/
theorem phaseChangesOnlyByAcceptCompleteReset : Obligations.PhaseChangesOnlyByAcceptCompleteReset := by
  intro s t hs
  obtain ⟨he, rfl⟩ | rfl | ⟨rest, hp, rfl⟩ | ⟨a, rest, due, hp, e⟩ := step_blockEffect hs
  · exact ⟨by simp, fun _ _ => .inl he⟩
  · simp +contextual
  · exact ⟨by simp, fun _ _ => .inr ⟨rest, hp⟩⟩
  · obtain h | ⟨hi, hr, hv, op, rfl⟩ := e.phase
    · simp +contextual [h]
    · refine ⟨fun _ _ => ⟨hv, rest, ?_⟩, by simp [hr]⟩
      cases op with
      | enc => exact .inl hp
      | dec => exact .inr hp

/-! ### What no access can read -/

/-- The two states of `SameView`, the second as the first with other hidden values. -/
theorem State.SameView.exists_hidden {s t : State} (v : s.SameView t) :
    ∃ dp lop lk lb, t = { s with dp, lop, lk, lb } ∧ (s.phase = .run → lop = s.lop ∧ lk = s.lk ∧ lb = s.lb) :=
  ⟨_, _, _, _, v.1, v.2⟩

/-- Two outcomes that end alike: in states of one view, or in the same fault. -/
def SameEnd (o o' : Host.Outcome State Fault Refusal) : Prop :=
  (∀ s, o = .next s → ∃ t, o' = .next t ∧ s.SameView t) ∧ ∀ f, o = .fault f → o' = .fault f

theorem SameEnd.next {s t : State} (v : s.SameView t) : SameEnd (.next s) (.next t) :=
  ⟨fun _ h => by cases h; exact ⟨t, rfl, v⟩, nofun⟩

theorem SameEnd.fault (f : Fault) : SameEnd (.fault f) (.fault f) :=
  ⟨fun _ h => (by cases h), fun _ h => h⟩

theorem State.tick_run {s : State} (h : s.phase = .run) : s.tick = { s with due := s.due - 1 } := by
  simp [State.tick, h]

section
variable {s t : State} (v : s.SameView t)
include v

theorem State.SameView.pending_eq : t.pending = s.pending := by
  obtain ⟨_, _, _, _, rfl, -⟩ := v.exists_hidden; rfl
theorem State.SameView.phase_eq : t.phase = s.phase := by
  obtain ⟨_, _, _, _, rfl, -⟩ := v.exists_hidden; rfl
theorem State.SameView.status_eq : t.status = s.status := by
  obtain ⟨_, _, _, _, rfl, -⟩ := v.exists_hidden; rfl
theorem State.SameView.readReg_eq (r : Reg) : t.readReg r = s.readReg r := by
  obtain ⟨_, _, _, _, rfl, -⟩ := v.exists_hidden; cases r <;> rfl
theorem State.SameView.engineTurn_eq : engineTurn t = engineTurn s := by
  obtain ⟨_, _, _, _, rfl, -⟩ := v.exists_hidden; rfl

theorem State.SameView.withPending (p : List HostAction) :
    State.SameView { s with pending := p } { t with pending := p } := by
  obtain ⟨_, _, _, _, rfl, hr⟩ := v.exists_hidden; exact ⟨rfl, hr⟩

theorem State.SameView.tick : s.tick.SameView t.tick := by
  cases h : s.phase with
  | idle => rwa [State.tick_idle h, State.tick_idle (v.phase_eq.trans h)]
  | run =>
    rw [State.tick_run h, State.tick_run (v.phase_eq.trans h)]
    obtain ⟨_, _, _, _, rfl, hr⟩ := v.exists_hidden; exact ⟨rfl, hr⟩

theorem State.SameView.hostRead (r : Reg) : (hostRead r s).SameView (hostRead r t) := by
  obtain ⟨_, _, _, _, rfl, hr⟩ := v.exists_hidden
  cases r <;> exact ⟨rfl, hr⟩

theorem State.SameView.readRequiring (r : Reg) (mask value : Word) :
    (readRequiring r mask value s).SameView (readRequiring r mask value t) := by
  obtain ⟨_, _, _, _, rfl, hr⟩ := v.exists_hidden
  cases r <;> exact ⟨rfl, hr⟩

theorem State.SameView.pollStatus : (pollStatus s).SameView (pollStatus t) := by
  unfold Machine.pollStatus
  rw [v.readReg_eq, v.pending_eq]
  split
  · exact (v.withPending _).hostRead _
  · exact v.hostRead _

theorem State.SameView.writeReg (w : Word) (r : Reg) : (s.writeReg w r).SameView (t.writeReg w r) := by
  obtain ⟨_, _, _, _, rfl, hr⟩ := v.exists_hidden
  cases r <;> exact ⟨rfl, hr⟩

theorem State.SameView.collide : s.collide.SameView t.collide := by
  obtain ⟨_, _, _, _, rfl, hr⟩ := v.exists_hidden; exact ⟨rfl, hr⟩

theorem State.SameView.raiseError (code : BitVec 4) : (s.raiseError code).SameView (t.raiseError code) := by
  obtain ⟨_, _, _, _, rfl, hr⟩ := v.exists_hidden; exact ⟨rfl, hr⟩

theorem State.SameView.beginCipher : s.beginCipher.SameView t.beginCipher := by
  obtain ⟨_, _, _, _, rfl, hr⟩ := v.exists_hidden; exact ⟨rfl, hr⟩

/-- Acceptance latches the operands, which both states show. -/
theorem State.SameView.accept (op : CipherOp) : (s.accept op).SameView (t.accept op) := by
  obtain ⟨_, _, _, _, rfl, -⟩ := v.exists_hidden; exact ⟨rfl, fun _ => ⟨rfl, rfl, rfl⟩⟩

theorem State.SameView.clearAll : s.clearAll.SameView t.clearAll := by
  obtain ⟨_, _, _, _, rfl, -⟩ := v.exists_hidden; exact ⟨rfl, fun _ => ⟨rfl, rfl, rfl⟩⟩

theorem State.SameView.applyReset : s.applyReset.SameView t.applyReset := by
  obtain ⟨_, _, _, _, rfl, -⟩ := v.exists_hidden; exact ⟨rfl, fun _ => ⟨rfl, rfl, rfl⟩⟩

/-- In RUN the latched operands agree, and the result depends on nothing else. -/
theorem State.SameView.complete (hp : s.phase = .run) : s.complete.SameView t.complete := by
  obtain ⟨_, _, _, _, rfl, hr⟩ := v.exists_hidden
  obtain ⟨rfl, rfl, rfl⟩ := hr hp
  exact ⟨rfl, fun _ => ⟨rfl, rfl, rfl⟩⟩

theorem State.SameView.startCipher (op : CipherOp) : (s.startCipher op).SameView (t.startCipher op) := by
  unfold State.startCipher
  rw [v.phase_eq, v.status_eq]
  split
  · exact v.collide
  · split
    · exact v.beginCipher.accept op
    · exact v.beginCipher.raiseError _

theorem State.SameView.exec (i : Instr) : SameEnd (exec i s) (exec i t) := by
  cases i with
  | nop => exact .next v
  | encrypt | decrypt => exact .next (v.startCipher _)
  | clear =>
    show SameEnd (execClear s) (execClear t)
    unfold execClear
    rw [v.phase_eq]
    split
    · exact .next v.collide
    · exact .next v.clearAll

theorem State.SameView.illegalCommand : (illegalCommand s).SameView (illegalCommand t) := by
  unfold Machine.illegalCommand
  rw [v.phase_eq]
  split
  · exact v.collide
  · exact v.raiseError _

theorem State.SameView.cmdWrite (w : Word) : SameEnd (cmdWrite w s) (cmdWrite w t) := by
  unfold Machine.cmdWrite
  split
  · exact v.exec _
  · exact .next v.illegalCommand

theorem State.SameView.hostWrite (r : Reg) (w : Word) : SameEnd (hostWrite r w s) (hostWrite r w t) := by
  cases r with
  | cmd => exact v.cmdWrite w
  | _ => exact .next (v.writeReg w _)

theorem State.SameView.busAccess (a : Access) : SameEnd (busAccess a s) (busAccess a t) := by
  unfold Machine.busAccess
  split
  · exact .next (v.hostRead _)
  · exact v.hostWrite _ _
  · exact .fault _

theorem State.SameView.hostAction (h : HostAction) : SameEnd (hostAction h s) (hostAction h t) := by
  cases h with
  | bus a => exact v.tick.busAccess a
  | rdRequire r mask value => exact .next (v.tick.readRequiring r mask value)
  | wait => exact .next v.tick.pollStatus
  | reset => exact .next v.applyReset

theorem State.SameView.step : SameEnd (step s) (step t) := by
  unfold Machine.step
  rw [v.engineTurn_eq]
  split
  · exact .next (v.complete ((engineTurn_iff s).mp ‹_›).1)
  · unfold hostTurn
    rw [v.pending_eq]
    split
    · exact .next v
    · exact (v.withPending _).hostAction _

end

/-- Settles O44: every operation a step is made of keeps two such states alike. -/
theorem hiddenStateNeverShows : Obligations.HiddenStateNeverShows :=
  fun _ _ v => v.step

end Sys2Proof.Machine
end

section
/-! PROOFS. The register window (20_memory.md): which accesses it admits, which addresses it decodes, and the idle block. -/

namespace Sys2Proof.Machine

/-! ### The admitted access -/

/-- The eight registers fill the window: every multiple of 4 is the offset of one (20_memory.md R50). -/
theorem atOffset_eq_none_iff (off : Fin 32) : Reg.atOffset off = none ↔ off.val % 4 ≠ 0 := by
  revert off
  decide

/-- The shapes that are not admitted: a wrong width, an offset between two registers, a fetch (20_memory.md R55). -/
theorem admitted_eq_none_iff (a : Access) :
    a.admitted = none ↔ a.width ≠ 32 ∨ a.off.val % 4 ≠ 0 ∨ a.kind = .fetch := by
  obtain ⟨off, width, kind⟩ := a
  cases kind with
  | fetch => simp [Access.admitted]
  | read | write => simp [Access.admitted, atOffset_eq_none_iff, imp_iff_not_or]

/-- Settles O15: an access that is not admitted faults, and an admitted one has a register to go on to. -/
theorem busFaultExactlyWhenNotAdmitted : Obligations.BusFaultExactlyWhenNotAdmitted := by
  intro a s
  rw [← admitted_eq_none_iff]
  refine ⟨busAccess_not_admitted s, fun ha => ?_⟩
  obtain ⟨r, hr⟩ := Option.ne_none_iff_exists'.mp ha
  exact busAccess_admitted s hr

/-! ### The addresses of the window -/

theorem base_mod_32 : Config.base % 32 = 0 :=
  Nat.mul_mod_right 32 Config.baseSlot

theorem windowOffset_base_add (off : Fin 32) : windowOffset (Config.base + off.val) = some off := by
  have hin : Config.base ≤ Config.base + off.val ∧ Config.base + off.val < Config.base + 32 := by omega
  rw [windowOffset, if_pos hin, Nat.add_sub_cancel_left, Fin.ofNat_val_eq_self]

theorem windowOffset_outside {addr : Nat} (h : addr < Config.base ∨ Config.base + 32 ≤ addr) :
    windowOffset addr = none :=
  if_neg (by omega)

/-- Settles O16: an address in the window names its own offset there, and one outside names none. -/
theorem windowDecodesBase : Obligations.WindowDecodesBase := by
  refine ⟨base_mod_32, fun off width kind s => ?inside, fun addr width kind s h => ?outside⟩
  case inside => simp only [issueAt, windowOffset_base_add]
  case outside => simp only [issueAt, windowOffset_outside h]

/-! ### The idle block -/

/-- The engine moves only in PHASE RUN. -/
theorem engineTurn_idle {s : State} (h : s.phase = .idle) : engineTurn s = false := by
  simp [engineTurn, h]

/-- Settles O38: it is the host's turn, and the host has nothing to do. -/
theorem idleBlockMakesNoMove : Obligations.IdleBlockMakesNoMove :=
  fun _ hidle hpending => (step_nothing_pending (engineTurn_idle hidle) hpending).2

end Sys2Proof.Machine
end

section
/-! PROOFS. The encoding (30_encoding.md): the command words and their decoder, the words that carry the operands, the
STATUS word, and the end of WAIT. -/

namespace Sys2Proof.Machine

/-! ### Command words -/

theorem decode_encode (i : Instr) : decode (encode i) = .ok i := by cases i <;> rfl

/-- Each legal word is its command's own encoding. -/
theorem decode_eq_ok_iff {w : Word} {i : Instr} : decode w = .ok i ↔ w = encode i :=
  ⟨fun h => (encode_of_decode h).symm, fun h => h ▸ decode_encode i⟩

/-- The opcode table's numbering of a 32-bit word is the word's own (30_encoding.md R71). -/
theorem decodeTableWord_toNat (w : Word) : decodeTableWord 32 w.toNat = (decode w).toOption := by
  have hlt : ¬ 2 ^ 32 ≤ w.toNat := Nat.not_le.mpr w.isLt
  rw [decodeTableWord, Nat.mod_eq_of_lt w.isLt, if_neg hlt, BitVec.ofNat_toNat, BitVec.setWidth_eq]
  cases decode w <;> rfl

/-- Settles O3: `encode` names for each command the one word that decodes to it. -/
theorem decodeEncodeAgree : Obligations.DecodeEncodeAgree := by
  refine ⟨fun i _ => ⟨decode_encode i, ?table⟩, fun w i => encode_of_decode⟩
  case table => rw [decodeTableWord_toNat, decode_encode]; rfl

/-- The full mask compares the whole word. -/
theorem and_fullMask (w : Word) : w &&& 0xFFFFFFFF = w :=
  BitVec.and_allOnes

theorem decode_illegal_iff (w : Word) : (∃ e, decode w = .error e) ↔ ∀ i, w ≠ encode i := by
  simp only [Ne, ← decode_eq_ok_iff]
  cases decode w with
  | ok i => simp
  | error e => simp

/-- The legal words are the commands' encodings. -/
theorem mem_legalWords_iff {w : Word} :
    w ∈ [(0x00000000 : Word), 0x00000001, 0x00000002, 0x00000003] ↔ ∃ i, w = encode i := by
  constructor
  · simp only [List.mem_cons, List.not_mem_nil, or_false]
    rintro (rfl | rfl | rfl | rfl)
    exacts [⟨.nop, rfl⟩, ⟨.encrypt, rfl⟩, ⟨.decrypt, rfl⟩, ⟨.clear, rfl⟩]
  · rintro ⟨i, rfl⟩
    cases i <;> decide

/-- The command map has one row for each command: its word under the full mask (30_encoding.md R73). -/
theorem mem_commandMap_iff {r : CommandRow} : r ∈ commandMap ↔ r = ⟨r.instr, encode r.instr, 0xFFFFFFFF⟩ := by
  obtain ⟨i, value, mask⟩ := r
  cases i <;> simp [commandMap, encode]

theorem selects_iff_of_mem {r : CommandRow} (hr : r ∈ commandMap) (w : Word) :
    r.selects w = true ↔ w = encode r.instr := by
  rw [mem_commandMap_iff.mp hr, CommandRow.selects, and_fullMask, beq_iff_eq]

/-- Settles O1: each clause says that the word is the command's encoding. -/
theorem decodeFollowsCommandMap : Obligations.DecodeFollowsCommandMap := by
  refine ⟨fun w => ?words, fun w i => ⟨fun hw => ?row, ?command⟩⟩
  case words =>
    simp only [and_fullMask, decode_eq_ok_iff, decode_illegal_iff, mem_legalWords_iff, not_exists]
    exact ⟨Iff.rfl, Iff.rfl, Iff.rfl, Iff.rfl, trivial⟩
  case row =>
    have hr : ⟨i, encode i, 0xFFFFFFFF⟩ ∈ commandMap := mem_commandMap_iff.mpr rfl
    exact ⟨_, hr, rfl, (selects_iff_of_mem hr w).mpr (decode_eq_ok_iff.mp hw)⟩
  case command =>
    rintro ⟨r, hr, rfl, hs⟩
    exact decode_eq_ok_iff.mpr ((selects_iff_of_mem hr w).mp hs)

/-- Settles O2: from 16 up a reserved bit is set, and below 16 the word is its own OP. -/
theorem illegalWordsByReason : Obligations.IllegalWordsByReason := by
  intro w
  rw [decode_eq]
  by_cases hr : 16 ≤ w.toNat
  · simp [hr, Nat.not_lt.mpr hr]
  · rw [if_neg hr]
    split_ifs <;> simp [hr] <;> omega

/-- Settles O4. -/
theorem decodeOfSpecWords : Obligations.DecodeOfSpecWords := by
  unfold Obligations.DecodeOfSpecWords
  decide

/-! ### Operand words -/

/-- Settles O5: a key and a block are their two parts put together, and the parts are what the words carry. -/
theorem operandWordsCarryKeyAndBlock : Obligations.OperandWordsCarryKeyAndBlock := by
  refine ⟨fun s k => ?key, fun s b => ?block, fun s => ⟨?keyHi, ?keyLo, ?blockHi, ?blockLo⟩⟩
  case key =>
    show keyHiWordOf k ++ keyLoField (keyLoWordOf k) = k
    rw [keyHiWordOf_eq, keyLoField_keyLoWordOf]
    exact append_slice (m := 32) (n := 24) k
  case block =>
    show hiWordOf b ++ loWordOf b = b
    rw [hiWordOf_eq, loWordOf_eq]
    exact append_slice (m := 32) (n := 32) b
  case keyHi => exact (keyHiWordOf_eq _).trans (slice_append _ _).1
  case keyLo =>
    rw [keyLoWordOf_eq, State.keySeq, (slice_append s.keyHi s.keyLo).2]
    rfl
  case blockHi => exact (hiWordOf_eq _).trans (slice_append _ _).1
  case blockLo => exact (loWordOf_eq _).trans (slice_append _ _).2

/-! ### The STATUS word -/

theorem toWord_errCode (f : Status) : f.toWord.extractLsb' 4 4 = f.errCode := by
  rw [Status.toWord]
  repeat rw [BitVec.extractLsb'_append_eq_of_le (by decide)]
  exact BitVec.extractLsb'_append_eq_right

/-- Settles O7: a bit of the word is the flag appended there, past the fields below it. -/
theorem statusWordLayout : Obligations.StatusWordLayout := by
  refine ⟨fun f => ⟨toWord_busy f, ?_, ?_, ?_, toWord_errCode f, ?_, ?_, ?_, ?_, toWord_reserved f⟩, by decide⟩
  all_goals
    rw [Status.toWord]
    simp only [BitVec.getLsbD_append]
    simp

/-! ### WAIT -/

/-- The machine takes a step, and then runs on. -/
theorem run_succ {s t : State} (h : step s = .next t) (k : Nat) : core.run (k + 1) s = core.run k t := by
  have hc : core.step s = .next t := h
  simp only [Host.Core.run, hc]

theorem hostAction_wait_idle {s : State} (hidle : s.phase = .idle) (hb : s.status.busy = false) :
    hostAction .wait s = .next (hostRead .status s) := by
  simp only [hostAction, State.tick_idle hidle, pollStatus, State.readReg, toWord_busy, hb, Bool.false_eq_true, if_false]

/-- A poll that reads BUSY = 1 counts one access and leaves the host waiting. -/
theorem hostAction_wait_run {s : State} (hrun : s.phase = .run) (hb : s.status.busy = true) :
    hostAction .wait s = .next (hostRead .status { s with pending := .wait :: s.pending, due := s.due - 1 }) := by
  simp only [hostAction, State.tick_run hrun, pollStatus, State.readReg, toWord_busy, hb, if_true]

/-- Within `n` steps the wait is over: PHASE is IDLE, the last read had BUSY = 0, and `rest` comes next. -/
def State.WaitOverWithin (rest : List HostAction) (n : Nat) (s : State) : Prop :=
  ∃ k t v, k ≤ n ∧ core.run k s = .next t ∧ t.pending = rest ∧ t.phase = .idle ∧
    t.readBack.head? = some v ∧ v.getLsbD 0 = false

theorem State.WaitOverWithin.of_step {rest : List HostAction} {n : Nat} {s t : State} (hs : step s = .next t)
    (ht : t.WaitOverWithin rest n) : s.WaitOverWithin rest (n + 1) := by
  obtain ⟨k, u, v, hk, hrun, hu⟩ := ht
  exact ⟨k + 1, u, v, Nat.succ_le_succ hk, (run_succ hs k).trans hrun, hu⟩

theorem State.WaitOverWithin.mono {rest : List HostAction} {m n : Nat} {s : State} (h : s.WaitOverWithin rest m)
    (hmn : m ≤ n) : s.WaitOverWithin rest n := by
  obtain ⟨k, t, v, hk, h⟩ := h
  exact ⟨k, t, v, hk.trans hmn, h⟩

section
variable {s : State} {rest : List HostAction} (h : s.Inv) (hp : s.pending = .wait :: rest)
include h hp

/-- While idle the first poll is the last. -/
theorem wait_over_of_idle (hidle : s.phase = .idle) : s.WaitOverWithin rest 1 := by
  have hb : s.status.busy = false := by
    rw [← Bool.not_eq_true, h.busy_iff_run, hidle]
    decide
  have hs : step s = .next (hostRead .status { s with pending := rest }) :=
    (step_host (engineTurn_idle hidle) hp).trans (hostAction_wait_idle hidle hb)
  exact ⟨1, _, s.status.toWord, le_rfl, run_succ hs 0, rfl, hidle, rfl, (toWord_busy _).trans hb⟩

/-- Once the command in flight is due, its completion comes before the last poll. -/
theorem wait_over_of_due (hrun : s.phase = .run) (hd : s.due = 0) : s.WaitOverWithin rest 2 :=
  .of_step (step_engine ((engineTurn_iff s).mpr ⟨hrun, .inl hd⟩)) (wait_over_of_idle (h.complete hrun) hp rfl)

theorem step_wait_of_run {d : Nat} (hrun : s.phase = .run) (hd : s.due = d + 1) :
    step s = .next (hostRead .status { s with pending := .wait :: rest, due := d }) := by
  have he : engineTurn s = false := by simp [engineTurn, hd, hp]
  have hpoll := hostAction_wait_run (s := { s with pending := rest }) hrun (h.busy_iff_run.mpr hrun)
  rw [step_host he hp, hpoll, hd, Nat.add_sub_cancel]

end

/-- With a command in flight, by induction on the accesses still due (70_reset_and_hazards.md R267). -/
theorem wait_over_of_run (rest : List HostAction) (d : Nat) (s : State) (h : s.Inv) (hp : s.pending = .wait :: rest)
    (hrun : s.phase = .run) (hd : s.due = d) : s.WaitOverWithin rest (d + 2) := by
  induction d generalizing s with
  | zero => exact wait_over_of_due h hp hrun hd
  | succ d ih =>
    exact .of_step (step_wait_of_run h hp hrun hd) (ih _ (h.hostFields _ _ _ _ _ _) rfl hrun rfl)

/-- Settles O31: while idle one poll is enough, and a command in flight completes first. -/
theorem waitEnds : Obligations.WaitEnds := by
  intro s rest h hp
  cases hph : s.phase with
  | idle => exact (wait_over_of_idle h hp hph).mono (by omega)
  | run => exact wait_over_of_run rest s.due s h hp hph rfl

end Sys2Proof.Machine
end

section
/-! PROOFS. Bit sequences and tables (40_bit_sequences_and_tables.md): the inverse of a permutation table, rotations,
the S-box bank, and the machine's own tables. -/

namespace Sys2Proof.Machine

/-! ### apply_inverse -/

theorem applyInverse_of_isPermutation {B : Nat} {t : Vector Nat B} (h : isPermutation t = true) (y : Bits B) :
    applyInverse y t = some (build B fun j => y.getMsbD (placeOf t j)) :=
  if_pos h

theorem applyInverse_apply {B : Nat} {t : Vector Nat B} (h : isPermutation t = true) (y : Bits B) :
    applyInverse (apply y t) t = some y := by
  rw [applyInverse_of_isPermutation h, Option.some_inj]
  refine (build_congr fun j hj => ?_).trans (build_getMsbD y)
  obtain ⟨hlt, hentry⟩ := placeOf_spec h hj
  simp [hlt, hentry]

theorem apply_of_applyInverse {B : Nat} {t : Vector Nat B} {x y : Bits B} (h : isPermutation t = true)
    (hx : applyInverse y t = some x) : apply x t = y := by
  rw [applyInverse_of_isPermutation h, Option.some_inj] at hx
  subst hx
  refine (build_congr fun i hi => ?_).trans (build_getMsbD y)
  have hrange := isPermutation_entry h hi
  have hlt : t.getD i 0 - 1 < B := by omega
  simp [hlt, placeOf_entry h hi]

/-- Settles O47: `placeOf` undoes the table, and the table `placeOf`. -/
theorem applyInverseUndoesApply : Obligations.ApplyInverseUndoesApply := by
  refine ⟨fun B t y h => ?refused, fun B t y h => ⟨applyInverse_apply h y, ?inverse⟩⟩
  case refused => simp [applyInverse, h]
  case inverse =>
    have hx := applyInverse_of_isPermutation h y
    exact ⟨_, hx, apply_of_applyInverse h hx⟩

/-! ### The initial and the final permutation -/

/-- A table that passes the check of R115 against the permutation `ip` lists where `ip` names each position. -/
theorem getD_of_invertsTable {B : Nat} {fp ip : Vector Nat B} (hip : isPermutation ip = true)
    (h : invertsTable fp ip = true) {j : Nat} (hj : j < B) : fp.getD j 0 = placeOf ip j + 1 := by
  obtain ⟨hlt, hentry⟩ := placeOf_spec hip hj
  simpa [hentry] using invertsTable_entry h hlt

theorem invertTable_of_invertsTable {B : Nat} {fp ip : Vector Nat B} (hip : isPermutation ip = true)
    (h : invertsTable fp ip = true) : invertTable ip = some fp := by
  rw [invertTable, if_pos hip, Option.some_inj]
  ext j hj
  rw [Vector.getElem_ofFn, ← getD_of_lt fp hj, getD_of_invertsTable hip h hj]

/-- Through such a table `apply` is `applyInverse` through `ip`. -/
theorem applyInverse_of_invertsTable {B : Nat} {fp ip : Vector Nat B} (hip : isPermutation ip = true)
    (h : invertsTable fp ip = true) (y : Bits B) : applyInverse y ip = some (apply y fp) := by
  rw [applyInverse_of_isPermutation hip, Option.some_inj]
  refine build_congr fun j hj => ?_
  rw [getD_of_invertsTable hip h hj, Nat.add_sub_cancel]

/-- The machine's tables pass the construction checks, by evaluation. -/
theorem tables_wf : tables.wf = true := by decide +kernel

/-- Settles O46: `apply` through FP is `applyInverse` through IP, and so both orders are O47's. -/
theorem initialAndFinalPermutationInverse : Obligations.InitialAndFinalPermutationInverse := by
  obtain ⟨hip, -, -, hinv, -⟩ := (tables_wf_iff tables).mp tables_wf
  refine ⟨invertTable_of_invertsTable hip hinv, fun i => invertsTable_entry hinv i.isLt, fun T hT x => ?_⟩
  obtain ⟨hip, -, -, hinv, -⟩ := (tables_wf_iff T).mp hT
  have hfp (y : Bits 64) : applyInverse y T.ip = some (apply y T.fp) := applyInverse_of_invertsTable hip hinv y
  constructor
  · exact Option.some_inj.mp ((hfp _).symm.trans (applyInverse_apply hip x))
  · exact apply_of_applyInverse hip (hfp x)

/-! ### Rotations -/

theorem rotl_zero {n : Nat} (h : Bits n) : rotl h 0 = h := by
  refine (build_congr fun i hi => ?_).trans (build_getMsbD h)
  rw [Nat.add_zero, Nat.mod_eq_of_lt hi]

theorem rotl_rotl {n : Nat} (h : Bits n) (a b : Nat) : rotl (rotl h a) b = rotl h ((a + b) % n) := by
  refine build_congr fun i hi => ?_
  have hlt : (i + b) % n < n := Nat.mod_lt _ (by omega)
  have hsum : ((i + b) % n + a) % n = (i + (a + b) % n) % n := by
    rw [Nat.mod_add_mod, Nat.add_mod_mod, Nat.add_assoc, Nat.add_comm b a]
  simp [hlt, hsum]

theorem rotl_of_zeros (n s : Nat) : rotl (0 : Bits n) s = 0 := by
  apply BitVec.eq_of_getMsbD_eq
  simp

/-- All ones are the complement of all zeros, and rotation keeps complements. -/
theorem rotl_of_ones (n s : Nat) : rotl (BitVec.allOnes n) s = BitVec.allOnes n := by
  rw [← BitVec.not_zero, rotl_compl]
  exact congrArg _ (rotl_of_zeros n s)

/-- Settles O48. -/
theorem rotationsCompose : Obligations.RotationsCompose := by
  refine ⟨fun n s i h hi => ?element, fun n a b h => ⟨rotl_zero h, rotl_rotl h a b⟩,
    fun n s => ⟨rotl_of_zeros n s, rotl_of_ones n s⟩⟩
  case element => simp [hi]

/-! ### The S-box bank -/

/-- The element put last is the least significant one. -/
theorem toNat_build_succ (n : Nat) (f : Nat → Bool) :
    (build (n + 1) f).toNat = 2 * (build n f).toNat + (f n).toNat := by
  rw [build, BitVec.toNat_concat, Nat.mul_comm]

/-- The value of a column, its four elements in order (R109). -/
theorem sboxCol_val (c : Bits 6) : (sboxCol c).val =
    8 * (c.getMsbD 1).toNat + 4 * (c.getMsbD 2).toNat + 2 * (c.getMsbD 3).toNat + (c.getMsbD 4).toNat := by
  have hcol : (sboxCol c).val = (slice 1 4 c).toNat := rfl
  have hempty (f : Nat → Bool) : (build 0 f).toNat = 0 := rfl
  simp only [hcol, slice, toNat_build_succ, hempty, Nat.reduceAdd]
  omega

theorem toNat_sboxLookup (T : Tables) (i : Fin 8) (c : Bits 6) : (sboxLookup T i c).toNat =
    ((T.s[i].getD (sboxRow c).val (Vector.replicate 16 0)).getD (sboxCol c).val 0) % 16 := by
  rw [sboxLookup, BitVec.toNat_ofNat]
  simp [Vector.getD]

/-- Settles O49: nibble `i` is the entry that chunk `i` selects in S-box `i`. -/
theorem substituteByChunks : Obligations.SubstituteByChunks := by
  refine ⟨fun T x i => ?nibble, by decide +kernel⟩
  case nibble =>
    rw [slice_substitute, toNat_sboxLookup, sboxCol_val]
    simp [sboxRow]

/-! ### The machine's tables -/

/-- Settles O45: the tables pass every check, and the rows are searched value by value. -/
theorem tablesPassConstructionChecks : Obligations.TablesPassConstructionChecks :=
  ⟨(tables_build_eq_ok tables).mpr tables_wf, by decide, by decide +kernel⟩

end Sys2Proof.Machine
end

section
/-! PROOFS. The key schedule (41_key_schedule.md): the initial seed as a selection of key bits, the seed as a rotation of
the initial one, the weak keys, and textbook DES beside the cipher (log 18). -/

namespace Sys2Proof.Machine

/-! ### The initial seed -/

/-- R141: off the placeholders, position `v` of the padded key is the raw key's, less the placeholders before it. -/
theorem getMsbD_padWith (ph : Bool) (raw : Bits 56) {v : Nat} (hpos : 1 ≤ v) (hle : v ≤ 64) (hoff : v % 8 ≠ 0) :
    (padWith ph raw).getMsbD (v - 1) = raw.getMsbD (v - (v - 1) / 8 - 1) := by
  have hlt : v - 1 < 64 := by omega
  have hnot : (v - 1) % 8 ≠ 7 := by omega
  have hplace : 7 * ((v - 1) / 8) + (v - 1) % 8 = v - (v - 1) / 8 - 1 := by omega
  simp [padWith, hlt, hnot, hplace]

/-- PC-1 names no placeholder, so the seed is a selection of raw key bits, whatever the placeholders hold. -/
theorem apply_padWith {T : Tables} (h : T.pc1Ok = true) (ph : Bool) (raw : Bits 56) : apply (padWith ph raw) T.pc1 =
    build 56 fun i => raw.getMsbD (T.pc1.getD i 0 - (T.pc1.getD i 0 - 1) / 8 - 1) := by
  refine build_congr fun i hi => ?_
  obtain ⟨hpos, hle, hoff⟩ := pc1Ok_entry h hi
  exact getMsbD_padWith ph raw hpos hle hoff

/-- Settles O52: the selection of `apply_padWith` does not mention the placeholder. -/
theorem placeholderUnobservable : Obligations.PlaceholderUnobservable := by
  intro T hT ph raw
  obtain ⟨-, -, -, -, -, hpc1, -, -⟩ := (tables_wf_iff T).mp hT
  exact (apply_padWith hpc1 ph raw).trans (apply_padWith hpc1 false raw).symm

theorem tables_pc1Ok : tables.pc1Ok = true := by
  obtain ⟨-, -, -, -, -, hpc1, -, -⟩ := (tables_wf_iff tables).mp tables_wf
  exact hpc1

/-- R142: the entries of PC1R are PC-1's, less the placeholders before them. -/
theorem getD_pc1rTable (i : Fin 56) :
    pc1rTable.getD i.val 0 = tables.pc1.getD i.val 0 - (tables.pc1.getD i.val 0 - 1) / 8 := by
  revert i
  decide

theorem isPermutation_pc1rTable : isPermutation pc1rTable = true := by decide +kernel

theorem preprocess_eq_apply_pc1rTable (raw : Bits 56) : preprocess tables raw = apply raw pc1rTable := by
  refine (apply_padWith tables_pc1Ok false raw).trans (build_congr fun i hi => ?_)
  rw [getD_pc1rTable ⟨i, hi⟩]

/-- Settles O50. -/
theorem preprocessIsPc1r : Obligations.PreprocessIsPc1r :=
  ⟨getD_pc1rTable, isPermutation_pc1rTable, preprocess_eq_apply_pc1rTable⟩

/-! ### The seed after each round -/

theorem rotl_mod {n : Nat} (h : Bits n) (s : Nat) : rotl h (s % n) = rotl h s :=
  build_congr fun i _ => by rw [Nat.add_mod_mod]

theorem rotlHalves_zero (seed : Bits 56) : rotlHalves seed 0 = seed := by
  rw [rotlHalves, rotl_zero, rotl_zero, halves_append]

theorem rotlHalves_rotlHalves (seed : Bits 56) (a b : Nat) :
    rotlHalves (rotlHalves seed a) b = rotlHalves seed (a + b) := by
  apply seed_eq_of_halves
  · simp only [halfC_rotlHalves, rotl_rotl, rotl_mod]
  · simp only [halfD_rotlHalves, rotl_rotl, rotl_mod]

/-- The full turn of both halves (R146). -/
theorem rotlHalves_28 (seed : Bits 56) : rotlHalves seed 28 = seed := by
  have hfull (h : Bits 28) : rotl h 28 = h := (rotl_mod h 28).symm.trans (rotl_zero h)
  rw [rotlHalves, hfull, hfull, halves_append]

/-- Rounds in any order rotate both halves by the sum of their shifts. -/
theorem seedAfter_eq_rotlHalves (seed : Bits 56) (rs : List (Fin 16)) :
    seedAfter seed rs = rotlHalves seed (rs.map fun r => shiftTable[r]).sum := by
  induction rs generalizing seed with
  | nil => exact (rotlHalves_zero seed).symm
  | cons r rs ih =>
    calc seedAfter seed (r :: rs)
      _ = seedAfter (rotlHalves seed shiftTable[r]) rs := rfl
      _ = rotlHalves seed ((r :: rs).map fun r => shiftTable[r]).sum := by
        rw [ih, rotlHalves_rotlHalves, List.map_cons, List.sum_cons]

/-- The rounds in order read the shift schedule from its start. -/
theorem map_shiftTable_take_rounds (n : Nat) :
    ((rounds.take n).map fun r => shiftTable[r]) = shiftTable.toList.take n := by
  have hall : (rounds.map fun r => shiftTable[r]) = shiftTable.toList := by decide
  rw [List.map_take, hall]

/-- Settles O51: rotations add up, and the shifts of all rounds make a full turn. -/
theorem cumulativeRotation : Obligations.CumulativeRotation := by
  refine fun T raw => ⟨fun r => ?upTo, ?last⟩
  case upTo => rw [seedAfter_eq_rotlHalves, map_shiftTable_take_rounds]
  case last =>
    have hsum : (rounds.map fun r => shiftTable[r]).sum = 28 := by decide
    rw [seedAfter_eq_rotlHalves, hsum, rotlHalves_28]

/-! ### Weak keys -/

/-- R149: each half of the seed is all zero or all one. -/
def HasConstantHalves (seed : Bits 56) : Prop :=
  (halfC seed = 0 ∨ halfC seed = BitVec.allOnes 28) ∧ (halfD seed = 0 ∨ halfD seed = BitVec.allOnes 28)

theorem hasConstantHalves_iff (seed : Bits 56) : HasConstantHalves seed ↔
    seed ∈ [(0x00000000000000 : Bits 56), 0xFFFFFFFFFFFFFF, 0xFFFFFFF0000000, 0x0000000FFFFFFF] := by
  constructor
  · rintro ⟨hc | hc, hd | hd⟩ <;> rw [← halves_append seed, hc, hd] <;> decide
  · intro h
    fin_cases h <;> unfold HasConstantHalves <;> decide +kernel

/-- The raw keys R149 lists. -/
def weakKeys : List (Bits 56) :=
  [0x00000000000000, 0xFFFFFFFFFFFFFF, 0xE1C3870F1E3C78, 0x1E3C78F0E1C387]

theorem preprocess_injective : Function.Injective (preprocess tables) := by
  intro a b h
  rw [preprocess_eq_apply_pc1rTable, preprocess_eq_apply_pc1rTable] at h
  have hinv := applyInverse_apply isPermutation_pc1rTable
  exact Option.some_inj.mp ((hinv a).symm.trans (h ▸ hinv b))

theorem hasConstantHalves_preprocess_iff (raw : Bits 56) :
    HasConstantHalves (preprocess tables raw) ↔ raw ∈ weakKeys := by
  have hseeds : weakKeys.map (preprocess tables) =
      [0x00000000000000, 0xFFFFFFFFFFFFFF, 0xFFFFFFF0000000, 0x0000000FFFFFFF] := by decide +kernel
  rw [hasConstantHalves_iff, ← hseeds, List.mem_map_of_injective preprocess_injective]

/-- A half that is all zero or all one is its own rotation. -/
theorem rotl_of_constant {h : Bits 28} (hh : h = 0 ∨ h = BitVec.allOnes 28) (s : Nat) : rotl h s = h := by
  obtain rfl | rfl := hh
  · exact rotl_of_zeros 28 s
  · exact rotl_of_ones 28 s

theorem HasConstantHalves.rotlHalves {seed : Bits 56} (h : HasConstantHalves seed) (n : Nat) :
    rotlHalves seed n = seed := by
  obtain ⟨hc, hd⟩ := h
  rw [Machine.rotlHalves, rotl_of_constant hc, rotl_of_constant hd, halves_append]

/-- Every round key of a weak key is compressed from the initial seed. -/
theorem getElem_deriveAllRoundKeys_of_weak {raw : Bits 56} (h : raw ∈ weakKeys) (r : Fin 16) :
    (deriveAllRoundKeys tables raw)[r] = compress tables (preprocess tables raw) := by
  have hseed := (hasConstantHalves_preprocess_iff raw).mpr h
  rw [getElem_deriveAllRoundKeys, seedAfter_eq_rotlHalves, hseed.rotlHalves]

/-- Settles O53: `preprocess` is injective, so only the listed keys reach the four seeds that no rotation changes. -/
theorem weakKeysAreFour : Obligations.WeakKeysAreFour := by
  refine ⟨hasConstantHalves_preprocess_iff, fun r => ?roundKeys⟩
  case roundKeys =>
    have hkey {raw : Bits 56} (h : raw ∈ weakKeys) := getElem_deriveAllRoundKeys_of_weak h r
    refine ⟨(hkey ?_).trans ?_, (hkey ?_).trans ?_, (hkey ?_).trans ?_, (hkey ?_).trans ?_⟩ <;> decide +kernel

/-! ### Textbook DES (log 18) -/

/-- R150: off the parity bits, position `v` of the DES key is the stripped key's, less the parity bits before it. -/
theorem getMsbD_stripParity (k64 : Bits 64) {v : Nat} (hpos : 1 ≤ v) (hle : v ≤ 64) (hoff : v % 8 ≠ 0) :
    (stripParity k64).getMsbD (v - (v - 1) / 8 - 1) = k64.getMsbD (v - 1) := by
  have hlt : v - (v - 1) / 8 - 1 < 56 := by omega
  have hplace : 8 * ((v - (v - 1) / 8 - 1) / 7) + (v - (v - 1) / 8 - 1) % 7 = v - 1 := by omega
  simp [stripParity, hlt, hplace]

/-- PC-1 names no parity bit, so deleting them leaves the initial seed as it is. -/
theorem preprocess_stripParity {T : Tables} (h : T.pc1Ok = true) (k64 : Bits 64) :
    preprocess T (stripParity k64) = apply k64 T.pc1 := by
  refine (apply_padWith h false _).trans (build_congr fun i hi => ?_)
  obtain ⟨hpos, hle, hoff⟩ := pc1Ok_entry h hi
  exact getMsbD_stripParity k64 hpos hle hoff

theorem deriveAllRoundKeys_stripParity {T : Tables} (h : T.pc1Ok = true) (k64 : Bits 64) :
    deriveAllRoundKeys T (stripParity k64) = desRoundKeys T k64 := by
  rw [deriveAllRoundKeys, preprocess_stripParity h, desRoundKeys]

theorem swap64_joinHalves (l r : Bits 32) : swap64 (joinHalves (l, r)) = joinHalves (r, l) := by
  obtain ⟨hfst, hsnd⟩ := slice_append l r
  exact congrArg₂ (· ++ ·) hsnd hfst

/-- Settles O58: the two ciphers run the same rounds, and IP undoes the FP that follows the last exchange. -/
theorem relationToTextbookDes : Obligations.RelationToTextbookDes := by
  intro T hT b k64
  obtain ⟨-, -, -, -, -, hpc1, -, -⟩ := (tables_wf_iff T).mp hT
  obtain ⟨-, -, hundo⟩ := initialAndFinalPermutationInverse
  have hkeys := deriveAllRoundKeys_stripParity hpc1 k64
  refine ⟨hkeys, ?encrypt⟩
  case encrypt => rw [desEncrypt, (hundo T hT _).2, swap64_joinHalves, encrypt, hkeys]

end Sys2Proof.Machine
end

section
/-! PROOFS. The Feistel round (42_feistel_round.md): its two directions, and the round function under complement. -/

namespace Sys2Proof.Machine

/-! ### The two directions of a round -/

/-- R167: the half that `roundFwd` hands on is the one f read, so `roundBwd` takes the same mask off again. -/
theorem roundBwd_roundFwd (T : Tables) (lr : Bits 32 × Bits 32) (k : Bits 48) : roundBwd T (roundFwd T lr k) k = lr :=
  Prod.ext (xor_cancel_right _ _) rfl

theorem roundFwd_roundBwd (T : Tables) (lr : Bits 32 × Bits 32) (k : Bits 48) : roundFwd T (roundBwd T lr k) k = lr :=
  Prod.ext rfl (xor_cancel_right _ _)

/-- Settles O54: a mask XORed in twice cancels, whatever f is. -/
theorem roundsUndoEachOther : Obligations.RoundsUndoEachOther :=
  fun T lr k => ⟨roundBwd_roundFwd T lr k, roundFwd_roundBwd T lr k⟩

/-! ### Complement -/

/-- The expansion copies bits, and so a complement of the half passes through it to the key mixing (R161, R162). -/
theorem feistel_compl_half {T : Tables} (h : inRange 32 T.e = true) (half : Bits 32) (rk : Bits 48) :
    feistel T (~~~half) rk = feistel T half (~~~rk) := by
  have hmix : apply (~~~half) T.e ^^^ rk = apply half T.e ^^^ ~~~rk := by
    rw [apply_compl h, ← BitVec.not_xor_left, BitVec.not_xor_right]
  rw [feistel, hmix, feistel]

/-- Settles O55: a complemented half is a complemented round key, and two complements of the key cancel. -/
theorem feistelComplementation : Obligations.FeistelComplementation := by
  intro T hT half rk
  obtain ⟨-, -, -, -, he, -, -, -⟩ := (tables_wf_iff T).mp hT
  refine ⟨?both, feistel_compl_half he half rk⟩
  case both => rw [feistel_compl_half he, BitVec.not_not]

end Sys2Proof.Machine
end

section
/-! PROOFS. Commands at the register window (43_engine_commands.md R190 to R203): what a read hands back, what a write
stores, and what the write of a command word does. -/

namespace Sys2Proof.Machine

/-! ### Reads and writes -/

theorem busAccess_read (s : State) (r : Reg) :
    busAccess { off := r.offset, width := 32, kind := .read } s = .next (hostRead r s) := by
  cases r <;> rfl

/-- The word of KEY_LO is its key bits moved past the reserved byte (10_state.md R23). -/
theorem keyLoWord_eq_shiftLeft (s : State) : s.keyLoWord = s.keyLo.setWidth 32 <<< 8 := by
  apply BitVec.eq_of_getLsbD_eq
  intro i hi
  rw [State.keyLoWord, BitVec.getLsbD_append, BitVec.getLsbD_shiftLeft, BitVec.getLsbD_setWidth]
  have hlt : i - 8 < 32 := by omega
  by_cases h : i < 8 <;> simp [h, hi, hlt]

/-- The registers, in the order of their offsets. -/
def Reg.all : List Reg :=
  [.keyHi, .keyLo, .dinHi, .dinLo, .doutHi, .doutLo, .cmd, .status]

/-- Settles O12: the list pairs the offset of each register with what `readReg` gives there. -/
theorem readsReturnRegisters : Obligations.ReadsReturnRegisters := by
  refine ⟨fun s off v h => ?read, fun s => ⟨?lowByte, toWord_reserved s.status⟩,
    fun s h hb => h.run_dout (h.busy_iff_run.mp hb)⟩
  case read =>
    rw [← keyLoWord_eq_shiftLeft] at h
    obtain ⟨r, -, hr⟩ : ∃ r ∈ Reg.all, (r.offset, s.readReg r) = (off, v) := List.mem_map.mp h
    cases hr
    exact busAccess_read s r
  case lowByte => rw [← keyLoWord_eq_shiftLeft, keyLoWord_lowByte]

/-- Settles O13: `writeReg` at each offset, in either phase. -/
theorem writesStoreAndSetValidFlag : Obligations.WritesStoreAndSetValidFlag := by
  refine ⟨fun s w => ?write, by decide⟩
  case write =>
    have hw {r : Reg} (hr : r ≠ .cmd) := busAccess_write s w hr
    exact ⟨hw (r := .keyHi) nofun, ⟨keyLoField w, keyLoField_read w, hw (r := .keyLo) nofun⟩,
      hw (r := .dinHi) nofun, hw (r := .dinLo) nofun, hw (r := .doutHi) nofun, hw (r := .doutLo) nofun,
      hw (r := .status) nofun⟩

/-! ### ENCRYPT and DECRYPT while idle -/

theorem exec_commandOf (op : CipherOp) (s : State) : exec (commandOf op) s = .next (s.startCipher op) := by
  cases op <;> rfl

theorem exec_commandOf_accepts {s : State} (op : CipherOp) (h : s.phase = .idle) (hv : s.status.allValid = true) :
    exec (commandOf op) s = .next (s.beginCipher.accept op) := by
  rw [exec_commandOf, startCipher_accepts op h hv]

theorem exec_commandOf_refuses {s : State} (op : CipherOp) (h : s.phase = .idle) (hv : s.status.allValid = false) :
    exec (commandOf op) s = .next (s.beginCipher.raiseError preconditionCode) := by
  rw [exec_commandOf, startCipher_refuses op h hv]

theorem Status.allValid_eq_false_iff (f : Status) :
    f.allValid = false ↔ ¬ (f.kvHi = true ∧ f.kvLo = true ∧ f.dvHi = true ∧ f.dvLo = true) := by
  rw [← Status.allValid_iff, Bool.not_eq_true]

/-- Settles O18. -/
theorem encryptStartsOrRefuses : Obligations.EncryptStartsOrRefuses := fun _ h =>
  ⟨fun hv => ⟨_, _, _, exec_commandOf_accepts .enc h ((Status.allValid_iff _).mpr hv), rfl, rfl⟩,
    fun hv => exec_commandOf_refuses .enc h ((Status.allValid_eq_false_iff _).mpr hv)⟩

/-- Settles O19. -/
theorem decryptStartsOrRefuses : Obligations.DecryptStartsOrRefuses := fun _ h =>
  ⟨fun hv => ⟨_, _, _, exec_commandOf_accepts .dec h ((Status.allValid_iff _).mpr hv), rfl, rfl⟩,
    fun hv => exec_commandOf_refuses .dec h ((Status.allValid_eq_false_iff _).mpr hv)⟩

/-- BUSY is 0 while idle (10_state.md R30, R42). -/
theorem State.Inv.busy_of_idle {s : State} (h : s.Inv) (hidle : s.phase = .idle) : s.status.busy = false := by
  rw [← Bool.not_eq_true, h.busy_iff_run, hidle]
  decide

theorem State.Inv.idle_of_not_busy {s : State} (h : s.Inv) (hb : s.status.busy = false) : s.phase = .idle := by
  cases hph : s.phase with
  | idle => rfl
  | run => cases hb.symm.trans (h.busy_iff_run.mpr hph)

/-- Settles O20: both commands refuse alike, and BUSY was 0 already. -/
theorem preconditionViolationRecorded : Obligations.PreconditionViolationRecorded := by
  refine ⟨fun i s hi hidle hv h => ?_, _, rfl, by decide⟩
  obtain ⟨op, rfl⟩ : ∃ op, i = commandOf op := hi.elim (⟨.enc, ·⟩) (⟨.dec, ·⟩)
  exact ⟨_, exec_commandOf_refuses op hidle hv, rfl, rfl, rfl, h.busy_of_idle hidle, rfl, rfl, rfl, rfl, rfl, rfl,
    rfl, rfl, rfl, hidle⟩

/-! ### NOP and CLEAR -/

/-- Settles O17. -/
theorem nopHasNoEffect : Obligations.NopHasNoEffect := fun _ => rfl

theorem exec_clear_idle {s : State} (h : s.phase = .idle) : exec .clear s = .next s.clearAll := by
  simp [exec, execClear, h]

/-- While busy NOP does nothing, and any other command is dropped (43_engine_commands.md R201). -/
theorem CommandEffect.of_busy {i : Instr} {s t : State} (e : CommandEffect i s t) (h : s.phase = .run) :
    (i = .nop ∧ t = s) ∨ t = s.collide := by
  cases e with
  | none => exact .inl ⟨rfl, rfl⟩
  | dropped => exact .inr rfl
  | accepted _ _ hidle | refused _ _ hidle | cleared _ hidle => cases h.symm.trans hidle

theorem exec_busy {i : Instr} {s : State} (hi : i ≠ .nop) (h : s.phase = .run) : exec i s = .next s.collide := by
  obtain ⟨t, ht, e⟩ := exec_effect i s
  obtain ⟨hnop, -⟩ | rfl := e.of_busy h
  · exact absurd hnop hi
  · exact ht

/-- Settles O21: of the effects of a command only CLEAR's lets COLL fall. -/
theorem clearResetsIdleBlock : Obligations.ClearResetsIdleBlock := by
  refine ⟨fun s => exec_clear_idle, fun s => exec_busy nofun, fun i s t ht hc hc' => ?onlyClear⟩
  case onlyClear =>
    cases effect_of_exec ht with
    | cleared => rfl
    | none => cases hc.symm.trans hc'
    | dropped => cases hc'
    | accepted | refused => cases hc.symm.trans hc'

/-! ### The write of a word to CMD -/

theorem cmdWrite_of_decode {w : Word} {i : Instr} (s : State) (h : decode w = .ok i) : cmdWrite w s = exec i s := by
  simp [cmdWrite, h]

theorem cmdWrite_illegal_idle {w : Word} {e : DecodeError} {s : State} (hw : decode w = .error e)
    (h : s.phase = .idle) : cmdWrite w s = .next (s.raiseError illegalCode) := by
  simp [cmdWrite, hw, illegalCommand, h]

/-- While busy the zero word, NOP, does nothing, and every other one, legal or not, is dropped. -/
theorem cmdWrite_busy (w : Word) {s : State} (h : s.phase = .run) :
    cmdWrite w s = .next (if w = 0 then s else s.collide) := by
  cases hw : decode w with
  | error e => rw [if_neg (ne_zero_of_decode_error hw)]; simp [cmdWrite, hw, illegalCommand, h]
  | ok i =>
    obtain rfl := encode_of_decode hw
    rw [cmdWrite_of_decode s hw]
    by_cases hi : i = .nop
    · subst hi
      rfl
    · rw [if_neg (encode_ne_zero hi), exec_busy hi h]

/-- Settles O22. -/
theorem illegalWordRecorded : Obligations.IllegalWordRecorded :=
  ⟨fun _ _ _ => cmdWrite_illegal_idle, _, rfl, by decide⟩

/-- Settles O23. -/
theorem busyWordsOnlyCollide : Obligations.BusyWordsOnlyCollide := fun w _ => cmdWrite_busy w

theorem decode_illegal_of_fields {w : Word} (h : rsvdField w ≠ 0 ∨ 4 ≤ (opField w).toNat) :
    ∃ e, decode w = .error e := by
  rw [decode_illegal_iff]
  rintro i rfl
  revert h
  cases i <;> decide

theorem decode_of_fields {w : Word} {i : Instr} (hr : ¬ rsvdField w ≠ 0) (ho : (opField w).toNat = (encode i).toNat) :
    decode w = .ok i := by
  rw [rsvdField_ne_zero] at hr
  rw [opField_toNat, Nat.mod_eq_of_lt (by omega)] at ho
  exact decode_eq_ok_iff.mpr (BitVec.eq_of_toNat_eq ho)

/-- Settles O24: the fields of a word settle how it decodes. -/
theorem cmdWriteChecksInOrder : Obligations.CmdWriteChecksInOrder := by
  intro w s out
  have hout : out = cmdWrite w s := rfl
  rw [hout]
  refine ⟨cmdWrite_busy w, fun hidle => ⟨fun hw => ?illegal, fun hw => ?legal⟩⟩
  case illegal =>
    obtain ⟨e, he⟩ := decode_illegal_of_fields hw
    exact cmdWrite_illegal_idle he hidle
  case legal =>
    have hrun (i : Instr) (ho : (opField w).toNat = (encode i).toNat) : cmdWrite w s = exec i s :=
      cmdWrite_of_decode s (decode_of_fields (fun hr => hw (.inl hr)) ho)
    refine ⟨hrun .nop, hrun .encrypt, hrun .decrypt, hrun .clear, ?missing⟩
    case missing =>
      rintro (ho | ho) hv
      · exact (hrun .encrypt ho).trans (exec_commandOf_refuses .enc hidle hv)
      · exact (hrun .decrypt ho).trans (exec_commandOf_refuses .dec hidle hv)

/-! ### Frames -/

/-- What a cipher command keeps, accepted or refused: the registers but DOUT and STATUS, the valid flags and COLL. -/
theorem CommandEffect.keeps_operands {i : Instr} {s t : State} (e : CommandEffect i s t) (hi : i ≠ .clear) :
    (∀ r : Reg, r ≠ .doutHi → r ≠ .doutLo → r ≠ .status → t.readReg r = s.readReg r) ∧
      t.status.kvHi = s.status.kvHi ∧ t.status.kvLo = s.status.kvLo ∧
      t.status.dvHi = s.status.dvHi ∧ t.status.dvLo = s.status.dvLo := by
  refine ⟨fun r hh hl hs => ?registers, ?flags⟩
  case registers =>
    cases e with
    | cleared => exact absurd rfl hi
    | none => rfl
    | dropped | accepted | refused =>
      cases r with
      | doutHi => exact absurd rfl hh
      | doutLo => exact absurd rfl hl
      | status => exact absurd rfl hs
      | _ => rfl
  case flags =>
    cases e with
    | cleared => exact absurd rfl hi
    | none | dropped | accepted | refused => exact ⟨rfl, rfl, rfl, rfl⟩

theorem CommandEffect.keeps_host {i : Instr} {s t : State} (e : CommandEffect i s t) :
    t.pending = s.pending ∧ t.readBack = s.readBack ∧ t.reqMet = s.reqMet ∧ t.dp = s.dp := by
  cases e <;> exact ⟨rfl, rfl, rfl, rfl⟩

/-- A command that does not start the engine keeps what the last one latched. -/
theorem CommandEffect.keeps_latched {i : Instr} {s t : State} (e : CommandEffect i s t) (hi : i ≠ .clear)
    (hp : t.phase = s.phase) :
    t.lop = s.lop ∧ t.lk = s.lk ∧ t.lb = s.lb ∧ t.serial = s.serial ∧ t.due = s.due := by
  cases e with
  | cleared => exact absurd rfl hi
  | accepted _ _ hidle => cases hp.trans hidle
  | none | dropped | refused => exact ⟨rfl, rfl, rfl, rfl, rfl⟩

/-- Settles O25, by the effects of a command. -/
theorem commandFrames : Obligations.CommandFrames := by
  intro i s t ht
  have e := effect_of_exec ht
  refine ⟨e.keeps_host, ?nop, fun hrun => ?busy, fun hi => ?others, ?clear⟩
  case nop =>
    rintro rfl
    cases ht
    rfl
  case busy => obtain ⟨-, rfl⟩ | rfl := e.of_busy hrun <;> rfl
  case others =>
    obtain ⟨hregs, hkvHi, hkvLo, hdvHi, hdvLo⟩ := e.keeps_operands hi
    refine ⟨hregs, hkvHi, hkvLo, hdvHi, hdvLo, fun hidle => ?coll, e.keeps_latched hi⟩
    case coll =>
      cases e with
      | cleared => exact absurd rfl hi
      | dropped _ _ _ hrun => cases hrun.symm.trans hidle
      | none | accepted | refused => rfl
  case clear =>
    rintro rfl
    cases hph : s.phase with
    | run => obtain ⟨-, rfl⟩ | rfl := e.of_busy hph <;> exact ⟨hph, rfl, rfl⟩
    | idle =>
      cases (exec_clear_idle hph).symm.trans ht
      exact ⟨hph, rfl, rfl⟩

end Sys2Proof.Machine
end

section
/-! PROOFS. The engine and the cipher functions (43_engine_commands.md R180 to R185, R196, R197): completion, the
datapath's reference sequence, the round trip, complements, and the bit-list forms. -/

namespace Sys2Proof.Machine

/-! ### Completion -/

/-- Settles O27: LATENCY 0 makes the completion due, and `complete` writes the two words of the result. -/
theorem completionWritesResult : Obligations.CompletionWritesResult := by
  refine ⟨fun s => ⟨fun ⟨_, he⟩ => ((engineTurn_iff _).mp he).1, fun hrun => ⟨0, ?enabled⟩⟩, fun s he => ?written⟩
  case enabled => exact (engineTurn_iff _).mpr ⟨hrun, .inl rfl⟩
  case written =>
    refine ⟨s.result, s.dp.run tables s.lop s.lk s.lb, fun hop => ?_, fun hop => ?_, ?step⟩
    case step => rw [← hiWordOf_eq, ← loWordOf_eq, step_engine he]; rfl
    all_goals rw [State.result, hop, cipher]

/-! ### The datapath's reference sequence -/

/-- One round on the halves, in the direction of the operation. -/
def roundOf (T : Tables) : CipherOp → Bits 32 × Bits 32 → Bits 48 → Bits 32 × Bits 32
  | .enc => roundFwd T
  | .dec => roundBwd T

/-- Both cipher functions are the operation's rounds, in its order, between IP and FP. -/
theorem cipher_eq_foldl (T : Tables) (op : CipherOp) (b : Bits 64) (k : Bits 56) : cipher T op b k =
    apply (joinHalves ((Datapath.order op).foldl (fun lr r => roundOf T op lr (deriveAllRoundKeys T k)[r])
      (splitHalves (apply b T.ip)))) T.fp := by
  cases op <;> rfl

/-- The datapath with other halves, in some round: all that the block's load and its rounds change. -/
def Datapath.withHalves (d : Datapath) (round : Fin 16) (lr : Bits 32 × Bits 32) : Datapath :=
  { d with round, l := lr.1, r := lr.2 }

theorem Datapath.loadBlock_eq (T : Tables) (block : Bits 64) (d : Datapath) :
    loadBlock T block d = d.withHalves d.round (splitHalves (apply block T.ip)) := rfl

theorem Datapath.cipherRound_withHalves (T : Tables) (op : CipherOp) (d : Datapath) (i r : Fin 16)
    (lr : Bits 32 × Bits 32) :
    cipherRound T op (d.withHalves i lr) r = d.withHalves r (roundOf T op lr d.rk[r]) := by
  cases op <;> rfl

/-- The rounds of the datapath are the rounds on its halves, each with the key that the round-key file holds for it. -/
theorem Datapath.foldl_cipherRound (T : Tables) (op : CipherOp) (d : Datapath) (rs : List (Fin 16)) (i : Fin 16)
    (lr : Bits 32 × Bits 32) : ∃ j, rs.foldl (cipherRound T op) (d.withHalves i lr) =
      d.withHalves j (rs.foldl (fun lr r => roundOf T op lr d.rk[r]) lr) := by
  induction rs generalizing i lr with
  | nil => exact ⟨i, rfl⟩
  | cons r rs ih =>
    rw [List.foldl_cons, cipherRound_withHalves]
    exact ih r _

theorem rounds_eq_finRange : rounds = List.finRange 16 := by decide

theorem rounds_take_succ {n : Nat} (hn : n < 16) : rounds.take (n + 1) = rounds.take n ++ [⟨n, hn⟩] := by
  rw [List.take_add_one, rounds_eq_finRange]
  simp [hn]

/-- After the first `n` rounds of the key schedule the seed has taken their rotations, and the round-key file holds
their keys (41_key_schedule.md R145). -/
theorem Datapath.foldl_keyRound_take (T : Tables) (d : Datapath) {n : Nat} (hn : n ≤ 16) :
    ((rounds.take n).foldl (keyRound T) d).seed = seedAfter d.seed (rounds.take n) ∧
      ∀ r : Fin 16, r.val < n → ((rounds.take n).foldl (keyRound T) d).rk[r] =
        compress T (seedAfter d.seed (rounds.take (r.val + 1))) := by
  induction n with
  | zero => exact ⟨rfl, nofun⟩
  | succ n ih =>
    obtain ⟨hseed, hrk⟩ := ih (by omega)
    have hafter : seedAfter d.seed (rounds.take (n + 1)) = advance (seedAfter d.seed (rounds.take n)) ⟨n, hn⟩ := by
      rw [rounds_take_succ hn, seedAfter, List.foldl_concat, seedAfter]
    refine ⟨?after, fun r hr => ?key⟩
    case after => rw [hafter, rounds_take_succ hn, List.foldl_concat, keyRound, hseed]
    case key =>
      rw [rounds_take_succ hn, List.foldl_concat, keyRound, hseed]
      obtain hlt | rfl : r.val < n ∨ n = r.val := by omega
      · have hne : n ≠ r.val := by omega
        simpa [hne] using hrk r hlt
      · simp [hafter]

/-- The key schedule leaves the derived round keys, and the seed as it began (41_key_schedule.md R145, R146). -/
theorem Datapath.foldl_keyRound_loadKey (T : Tables) (key : Bits 56) (d : Datapath) :
    (rounds.foldl (keyRound T) (loadKey T key d)).seed = preprocess T key ∧
      (rounds.foldl (keyRound T) (loadKey T key d)).rk = deriveAllRoundKeys T key := by
  obtain ⟨hseed, hrk⟩ := foldl_keyRound_take T (loadKey T key d) (Nat.le_refl 16)
  have hall : rounds.take 16 = rounds := rfl
  rw [hall] at hseed hrk
  exact ⟨hseed.trans (cumulativeRotation T key).2,
    Vector.ext fun r hr => (hrk ⟨r, hr⟩ hr).trans (getElem_deriveAllRoundKeys T key ⟨r, hr⟩).symm⟩

/-- The reference sequence ends with what the key schedule left, and the halves of the operation's rounds. -/
theorem Datapath.run_eq (T : Tables) (op : CipherOp) (key : Bits 56) (block : Bits 64) (d : Datapath) :
    ∃ j, d.run T op key block = (rounds.foldl (keyRound T) (loadKey T key d)).withHalves j
      ((order op).foldl (fun lr r => roundOf T op lr (deriveAllRoundKeys T key)[r])
        (splitHalves (apply block T.ip))) := by
  rw [run, loadBlock_eq, ← (foldl_keyRound_loadKey T key d).2]
  exact foldl_cipherRound T op _ _ _ _

/-- Settles O28: the key schedule fills the file, and the rounds then read the derived keys from it. -/
theorem datapathComputesCipher : Obligations.DatapathComputesCipher := by
  intro T op key block d
  obtain ⟨hseed, hrk⟩ := Datapath.foldl_keyRound_loadKey T key d
  obtain ⟨j, hrun⟩ := Datapath.run_eq T op key block d
  rw [hrun]
  exact ⟨(cipher_eq_foldl T op block key).symm, hrk, hseed⟩

/-! ### The round trip -/

/-- Steps taken back in the opposite order lead back to the start. -/
theorem foldl_reverse_undo {α β : Type} {f g : β → α → β} (h : ∀ b a, g (f b a) a = b) (l : List α) (b : β) :
    l.reverse.foldl g (l.foldl f b) = b := by
  induction l generalizing b with
  | nil => rfl
  | cons a l ih => rw [List.reverse_cons, List.foldl_concat, List.foldl_cons, ih, h]

/-- IP of a ciphertext is the halves as the last round left them: FP and the joining of the halves come off. -/
theorem splitHalves_ip_fp {T : Tables} (hT : T.wf = true) (lr : Bits 32 × Bits 32) :
    splitHalves (apply (apply (joinHalves lr) T.fp) T.ip) = lr := by
  obtain ⟨-, -, hundo⟩ := initialAndFinalPermutationInverse
  rw [(hundo T hT _).2, split_join]

theorem fp_joinHalves_splitHalves_ip {T : Tables} (hT : T.wf = true) (b : Bits 64) :
    apply (joinHalves (splitHalves (apply b T.ip))) T.fp = b := by
  obtain ⟨-, -, hundo⟩ := initialAndFinalPermutationInverse
  rw [join_split, (hundo T hT b).1]

/-- The operation that takes the other one back. -/
def inverseOp : CipherOp → CipherOp
  | .enc => .dec
  | .dec => .enc

theorem order_inverseOp (op : CipherOp) : Datapath.order (inverseOp op) = (Datapath.order op).reverse := by
  cases op <;> rfl

theorem roundOf_inverseOp (T : Tables) (op : CipherOp) (lr : Bits 32 × Bits 32) (k : Bits 48) :
    roundOf T (inverseOp op) (roundOf T op lr k) k = lr := by
  cases op with
  | enc => exact roundBwd_roundFwd T lr k
  | dec => exact roundFwd_roundBwd T lr k

theorem foldl_roundOf_inverseOp (T : Tables) (op : CipherOp) (rk : Vector (Bits 48) 16) (rs : List (Fin 16))
    (lr : Bits 32 × Bits 32) :
    rs.reverse.foldl (fun lr r => roundOf T (inverseOp op) lr rk[r]) (rs.foldl (fun lr r => roundOf T op lr rk[r]) lr) =
      lr :=
  foldl_reverse_undo (fun lr r => roundOf_inverseOp T op lr rk[r]) rs lr

/-- Between IP and FP, the rounds of one operation take back those of the other, the last one first. -/
theorem cipher_inverseOp {T : Tables} (hT : T.wf = true) (op : CipherOp) (b : Bits 64) (k : Bits 56) :
    cipher T (inverseOp op) (cipher T op b k) k = b := by
  rw [cipher_eq_foldl, cipher_eq_foldl, splitHalves_ip_fp hT, order_inverseOp, foldl_roundOf_inverseOp,
    fp_joinHalves_splitHalves_ip hT]

/-- Settles O56. -/
theorem cipherRoundTrip : Obligations.CipherRoundTrip := fun _ hT b k =>
  ⟨cipher_inverseOp hT .enc b k, cipher_inverseOp hT .dec b k⟩

/-- Settles O60: the vector by evaluation, and its decryption by the round trip. -/
theorem goldenVector : Obligations.GoldenVector := by
  have hvector : encrypt tables 0x0000000000000000 0x00000000000000 = 0x4C598ED6C272135B := by decide +kernel
  exact ⟨hvector, hvector ▸ (cipherRoundTrip tables tables_wf _ _).1⟩

/-! ### Complements -/

theorem preprocess_compl {T : Tables} (h : T.pc1Ok = true) (k : Bits 56) :
    preprocess T (~~~k) = ~~~(preprocess T k) := by
  rw [preprocess, preprocess, pad, pad, apply_padWith h, apply_padWith h]
  apply BitVec.eq_of_getMsbD_eq
  intro i hi
  have hentry := pc1Ok_entry h hi
  rw [getMsbD_compl _ hi, getMsbD_build, getMsbD_build, getMsbD_compl _ (by omega)]
  simp [hi]

theorem seedAfter_compl (seed : Bits 56) (rs : List (Fin 16)) : seedAfter (~~~seed) rs = ~~~(seedAfter seed rs) := by
  rw [seedAfter_eq_rotlHalves, rotlHalves_compl, seedAfter_eq_rotlHalves]

/-- Every round key of the complemented key is complemented. -/
theorem getElem_deriveAllRoundKeys_compl {T : Tables} (hT : T.wf = true) (k : Bits 56) (r : Fin 16) :
    (deriveAllRoundKeys T (~~~k))[r] = ~~~(deriveAllRoundKeys T k)[r] := by
  obtain ⟨-, -, -, -, -, hpc1, hpc2, -⟩ := (tables_wf_iff T).mp hT
  rw [getElem_deriveAllRoundKeys, preprocess_compl hpc1, seedAfter_compl, compress, apply_compl (pc2Ok_inRange hpc2),
    getElem_deriveAllRoundKeys, compress]

/-- The complement of both halves. -/
def complHalves (lr : Bits 32 × Bits 32) : Bits 32 × Bits 32 :=
  (~~~lr.1, ~~~lr.2)

/-- A round in either direction takes complements to complements: f gives the same mask. -/
theorem roundOf_compl {T : Tables} (hT : T.wf = true) (op : CipherOp) (lr : Bits 32 × Bits 32) (k : Bits 48) :
    roundOf T op (complHalves lr) (~~~k) = complHalves (roundOf T op lr k) := by
  have hmask (half : Bits 32) : feistel T (~~~half) (~~~k) = feistel T half k := (feistelComplementation T hT half k).1
  cases op with
  | enc => exact Prod.ext rfl ((congrArg _ (hmask _)).trans (BitVec.not_xor_left ..).symm)
  | dec => exact Prod.ext ((congrArg _ (hmask _)).trans (BitVec.not_xor_left ..).symm) rfl

/-- A permutation of the block takes complements to complements. -/
theorem apply_compl_of_isPermutation {B : Nat} {t : Vector Nat B} (h : isPermutation t = true) (x : Bits B) :
    apply (~~~x) t = ~~~(apply x t) :=
  apply_compl (inRange_of_isPermutation h) x

theorem cipher_compl {T : Tables} (hT : T.wf = true) (op : CipherOp) (b : Bits 64) (k : Bits 56) :
    cipher T op (~~~b) (~~~k) = ~~~(cipher T op b k) := by
  obtain ⟨hip, hfp, -, -, -, -, -, -⟩ := (tables_wf_iff T).mp hT
  have hround (lr : Bits 32 × Bits 32) (r : Fin 16) :
      roundOf T op (complHalves lr) (deriveAllRoundKeys T (~~~k))[r] =
        complHalves (roundOf T op lr (deriveAllRoundKeys T k)[r]) := by
    rw [getElem_deriveAllRoundKeys_compl hT, roundOf_compl hT]
  have hsplit (x : Bits 64) : splitHalves (~~~x) = complHalves (splitHalves x) := splitHalves_compl x
  have hjoin (lr : Bits 32 × Bits 32) : joinHalves (complHalves lr) = ~~~(joinHalves lr) := joinHalves_compl lr.1 lr.2
  rw [cipher_eq_foldl, apply_compl_of_isPermutation hip, hsplit, List.foldl_hom complHalves hround, hjoin,
    apply_compl_of_isPermutation hfp, cipher_eq_foldl]

/-- Settles O57. -/
theorem cipherComplementation : Obligations.CipherComplementation := fun _ hT b k =>
  ⟨cipher_compl hT .enc b k, cipher_compl hT .dec b k⟩

/-! ### The bit-list forms -/

theorem length_toList {n : Nat} (x : Bits n) : (toList x).length = n := by
  simp [toList]

theorem ofList_toList {n : Nat} (x : Bits n) : ofList n (toList x) = x := by
  refine (build_congr fun i hi => ?_).trans (build_getMsbD x)
  simp [toList, List.getD, hi]

theorem toList_ofList {n : Nat} {xs : List Bool} (h : xs.length = n) : toList (ofList n xs) = xs := by
  apply List.ext_getElem
  · rw [length_toList, h]
  · intro i _ hi
    simp [toList, ofList, hi, ← h]

section
variable (T : Tables) {b k : List Bool}

theorem encryptL_of_lengths (hb : b.length = 64) (hk : k.length = 56) :
    encryptL T b k = .ok (encrypt T (ofList 64 b) (ofList 56 k)) := by
  simp [encryptL, requiring, hb, hk]

theorem decryptL_of_lengths (hb : b.length = 64) (hk : k.length = 56) :
    decryptL T b k = .ok (decrypt T (ofList 64 b) (ofList 56 k)) := by
  simp [decryptL, requiring, hb, hk]

theorem requiring_of_wrong_length {α : Type} (value : α) (h : b.length ≠ 64 ∨ k.length ≠ 56) :
    requiring (b.length == 64 && k.length == 56) value = .error .preconditionViolation := by
  simp [requiring, imp_iff_not_or, h]

end

/-- Settles O59: on lists of the right lengths the forms are the typed functions, and so undo each other as these do. -/
theorem bitListFormsCheckLengthsFirst : Obligations.BitListFormsCheckLengthsFirst := by
  refine ⟨fun T b k h => ⟨requiring_of_wrong_length _ h, requiring_of_wrong_length _ h⟩,
    fun T b k => ⟨?encrypts, ?decrypts⟩,
    fun T b k hT hb hk =>
      ⟨⟨_, encryptL_of_lengths T hb hk, ?decryptEncrypt⟩, _, decryptL_of_lengths T hb hk, ?encryptDecrypt⟩⟩
  case encrypts => rw [encryptL_of_lengths T (length_toList b) (length_toList k), ofList_toList, ofList_toList]
  case decrypts => rw [decryptL_of_lengths T (length_toList b) (length_toList k), ofList_toList, ofList_toList]
  case decryptEncrypt =>
    rw [decryptL_of_lengths T (length_toList _) hk, ofList_toList, (cipherRoundTrip T hT _ _).1, Except.map,
      toList_ofList hb]
  case encryptDecrypt =>
    rw [encryptL_of_lengths T (length_toList _) hk, ofList_toList, (cipherRoundTrip T hT _ _).2, Except.map,
      toList_ofList hb]

end Sys2Proof.Machine
end

section
/-! PROOFS. The command word in the host's stream, what stops a step, and the end of a host's program
(43_engine_commands.md R190, R200, R202; 70_reset_and_hazards.md R267). -/

namespace Sys2Proof.Machine

/-! ### The word written next -/

theorem busAccess_cmd (w : Word) (s : State) :
    busAccess { off := 0x18, width := 32, kind := .write w } s = cmdWrite w s := rfl

theorem State.tick_eq_ite (s : State) : s.tick = { s with due := if s.phase = .run then s.due - 1 else s.due } := by
  obtain ⟨due, h⟩ := s.tick_eq
  have hdue := s.tick_due
  rw [h] at hdue ⊢
  rw [← hdue]

/-- When the host comes first, the word it writes to CMD next is decoded and run in this step, after the access has been
counted. -/
theorem step_write_cmd {s : State} {w : Word} {rest : List HostAction} (he : engineTurn s = false)
    (hp : s.pending = wr .cmd w :: rest) : step s = cmdWrite w (State.tick { s with pending := rest }) :=
  step_host he hp

/-- Settles O36. -/
theorem stepRunsDecodedCommand : Obligations.StepRunsDecodedCommand := by
  intro s w i rest hp hw he
  rw [step_write_cmd he hp, cmdWrite_of_decode _ hw, State.tick_eq_ite]

theorem withFetchWord_toNat (s : State) (w : Word) : s.withFetchWord 32 w.toNat = s.withNextCommand w := by
  rw [State.withFetchWord, Nat.mod_eq_of_lt w.isLt, BitVec.ofNat_toNat, BitVec.setWidth_eq]

theorem withNextCommand_idle {s : State} (h : s.phase = .idle) (w : Word) :
    s.withNextCommand w = { s with pending := wr .cmd w :: s.pending } := by
  unfold State.withNextCommand
  split
  · cases h.symm.trans ‹_›
  · rfl

/-- In RUN the placed word keeps the completion off for one access, its own. -/
theorem withNextCommand_run {s : State} (h : s.phase = .run) (w : Word) :
    s.withNextCommand w = { s with pending := wr .cmd w :: s.pending, due := max s.due 1 } := by
  unfold State.withNextCommand
  split
  · rfl
  · cases h.symm.trans ‹_›

theorem step_withNextCommand_idle {s : State} (h : s.phase = .idle) (w : Word) :
    step (s.withNextCommand w) = cmdWrite w s := by
  rw [withNextCommand_idle h]
  calc step { s with pending := wr .cmd w :: s.pending }
    _ = cmdWrite w s.tick := step_write_cmd (engineTurn_idle h) rfl
    _ = cmdWrite w s := by rw [State.tick_idle h]

theorem step_withNextCommand_run {s : State} (h : s.phase = .run) (w : Word) :
    step (s.withNextCommand w) = cmdWrite w { s with due := max s.due 1 - 1 } := by
  have hturn : engineTurn { s with pending := wr .cmd w :: s.pending, due := max s.due 1 } = false := by
    simp [engineTurn]
  rw [withNextCommand_run h, step_write_cmd hturn rfl]
  exact congrArg _ (State.tick_run h)

/-- Settles O37. -/
theorem fetchWordRunsNext : Obligations.FetchWordRunsNext := by
  refine ⟨fun i s h => ?command, fun w s h => ?idle, fun w s h => ?run⟩
  case command =>
    rw [withFetchWord_toNat, step_withNextCommand_idle h, cmdWrite_of_decode s (decode_encode i)]
  case idle => rw [withFetchWord_toNat, step_withNextCommand_idle h]
  case run => rw [withFetchWord_toNat, step_withNextCommand_run h]

/-! ### What stops a step -/

/-- A step goes on, or the host's next access is one that is not admitted. -/
theorem step_next_or_fault (s : State) : (∃ t, step s = .next t) ∨
    engineTurn s = false ∧ ∃ a rest, s.pending = .bus a :: rest ∧ a.admitted = none ∧
      step s = .fault (.busFault a.off a.width) := by
  cases he : engineTurn s with
  | true => exact .inl ⟨_, step_engine he⟩
  | false =>
    cases hp : s.pending with
    | nil => exact .inl ⟨s, (step_nothing_pending he hp).2⟩
    | cons h rest =>
      rw [step_host he hp]
      obtain hnext | ⟨a, rfl, ha, hf⟩ := hostAction_next_or_fault h { s with pending := rest }
      · exact .inl hnext
      · exact .inr ⟨rfl, a, rest, rfl, ha, hf⟩

/-- Settles O35. -/
theorem stepStopsOnlyByBusFault : Obligations.StepStopsOnlyByBusFault := by
  intro s
  obtain ⟨t, ht⟩ | ⟨he, a, rest, hp, ha, hf⟩ := step_next_or_fault s
  · rw [ht]
    exact ⟨nofun, nofun⟩
  · rw [hf]
    refine ⟨nofun, fun f h => ?_⟩
    cases h
    exact ⟨he, a, rest, hp, ha, rfl⟩

/-! ### The end of a host's program -/

/-- Every action to come is a reset, or does not fault. -/
def State.Admitted (s : State) : Prop :=
  ∀ h ∈ s.pending, h = .reset ∨ h.harmless = true

theorem State.Admitted.step_next {s : State} (h : s.Admitted) : ∃ t, step s = .next t := by
  obtain hnext | ⟨-, a, rest, hp, ha, -⟩ := step_next_or_fault s
  · exact hnext
  · obtain hr | hr := h (.bus a) (by simp [hp])
    · cases hr
    · simp [HostAction.harmless, ha] at hr

/-- The steps that a WAIT at the front of the stream can still take before the block is idle. -/
def State.load (s : State) : Nat :=
  match s.phase with
  | .run => s.due + 1
  | .idle => 0

theorem State.load_run {s : State} (h : s.phase = .run) : s.load = s.due + 1 := by
  simp [State.load, h]

/-- An action leaves the stream to what follows it, a WAIT only when it has read BUSY = 0; else the WAIT is put back. -/
theorem HostEffect.pending {a : HostAction} {s t : State} (e : HostEffect a s t) :
    (t.pending = s.pending ∧ (a = .wait → t.status.busy = false)) ∨
      (a = .wait ∧ s.status.busy = true ∧ t.pending = a :: s.pending ∧ t.phase = s.phase ∧ t.due = s.due) := by
  cases e with
  | waiting _ hb => exact .inr ⟨rfl, hb, rfl, rfl, rfl⟩
  | waited _ hb => exact .inl ⟨rfl, fun _ => hb⟩
  | store r w => exact .inl ⟨State.writeReg_pending s w r, nofun⟩
  | ran _ _ _ _ _ he => exact .inl ⟨he.keeps_host.1, nofun⟩
  | illegal =>
    obtain ⟨-, ht⟩ | ⟨-, ht⟩ := illegalCommand_cases s <;> exact .inl ⟨by rw [ht]; rfl, nofun⟩
  | read | required => exact .inl ⟨rfl, nofun⟩

/-- A step takes the host's next action from the stream, and after a WAIT the block is idle; or it keeps the stream and
brings the command in flight nearer to its end. -/
theorem step_pending {s t : State} {a : HostAction} {rest : List HostAction} (h : s.Inv) (hs : step s = .next t)
    (hp : s.pending = a :: rest) :
    (t.pending = rest ∧ (a = .wait → t.phase = .idle)) ∨ (t.pending = s.pending ∧ t.load < s.load) := by
  cases step_effect hs with
  | completed _ he =>
    have hrun := ((engineTurn_iff s).mp he).1
    exact .inr ⟨rfl, by rw [State.load_run hrun]; exact Nat.succ_pos _⟩
  | idled _ _ hnil => cases hp.symm.trans hnil
  | wasReset _ _ _ hr =>
    cases hp.symm.trans hr
    exact .inl ⟨rfl, nofun⟩
  | acted _ _ _ _ he hr e =>
    cases hp.symm.trans hr
    obtain ⟨hkept, hquiet⟩ | ⟨-, hb, hput, hph, hdue⟩ := e.pending
    · have ht := stepKeepsBlockInvariant s t h hs
      exact .inl ⟨hkept.trans (State.tick_pending _), fun hw => ht.idle_of_not_busy (hquiet hw)⟩
    · have hrun : s.phase = .run := h.busy_iff_run.mp (by simpa using hb)
      have hpos : s.due ≠ 0 := fun hd => by simp [(engineTurn_iff s).mpr ⟨hrun, .inl hd⟩] at he
      have hcount : t.due = s.due - 1 := by simpa [State.tick_due, hrun] using hdue
      have hload : t.load = t.due + 1 := State.load_run (hph.trans (by simpa using hrun))
      refine .inr ⟨by simpa [hp] using hput, ?_⟩
      rw [hload, hcount, State.load_run hrun]
      omega

/-- The program's last action is a WAIT still to come, or has been performed and has left the block idle. -/
def State.WaitsLast (s : State) : Prop :=
  (s.pending = [] ∧ s.phase = .idle) ∨ ∃ before, s.pending = before ++ [.wait]

/-- The program ends, in a state that keeps the invariant, and idle if a WAIT is its last action. -/
def State.EndsWell (s : State) : Prop :=
  ∃ k t, programEnd k s = some t ∧ t.Inv ∧ (s.WaitsLast → t.phase = .idle)

theorem State.EndsWell.of_nil {s : State} (h : s.Inv) (hp : s.pending = []) : s.EndsWell := by
  refine ⟨0, s, by simp [programEnd, hp], h, ?_⟩
  rintro (⟨-, hidle⟩ | ⟨before, hw⟩)
  · exact hidle
  · simp [hp] at hw

theorem State.EndsWell.of_step {s t : State} (ht : t.EndsWell) (hp : s.pending ≠ []) (hs : step s = .next t)
    (hw : s.WaitsLast → t.WaitsLast) : s.EndsWell := by
  obtain ⟨k, u, hend, hu, hidle⟩ := ht
  exact ⟨k + 1, u, by simp [programEnd, hp, hs, hend], hu, hidle ∘ hw⟩

/-- Taking an action from the stream leaves the last one last, and if it was the last, and a WAIT, the block is idle. -/
theorem State.WaitsLast.taken {s t : State} {a : HostAction} (hp : s.pending = a :: t.pending)
    (hidle : a = .wait → t.phase = .idle) (h : s.WaitsLast) : t.WaitsLast := by
  obtain ⟨hnil, -⟩ | ⟨before, hw⟩ := h
  · cases hp.symm.trans hnil
  · cases before with
    | nil =>
      obtain ⟨rfl, hnil⟩ := List.cons.inj (hp.symm.trans hw)
      exact .inl ⟨hnil, hidle rfl⟩
    | cons b before => exact .inr ⟨before, (List.cons.inj (hp.symm.trans hw)).2⟩

theorem State.WaitsLast.of_pending_eq {s t : State} (hp : t.pending = s.pending) (hne : s.pending ≠ [])
    (h : s.WaitsLast) : t.WaitsLast :=
  .inr (hp ▸ h.resolve_left fun hs => hne hs.1)

/-- By the actions still to come, and for one of them by the steps the command in flight can still take. -/
theorem endsWell_of_admitted (s : State) (h : s.Inv) (hadm : s.Admitted) : s.EndsWell := by
  cases hp : s.pending with
  | nil => exact .of_nil h hp
  | cons a rest =>
    have hne : s.pending ≠ [] := by simp [hp]
    obtain ⟨t, hs⟩ := hadm.step_next
    have ht : t.Inv := stepKeepsBlockInvariant s t h hs
    obtain ⟨rfl, hidle⟩ | ⟨hkept, hload⟩ := step_pending h hs hp
    · have hrest : t.Admitted := fun b hb => hadm b (hp ▸ List.mem_cons_of_mem a hb)
      have hless : t.pending.length < s.pending.length := by simp [hp]
      exact (endsWell_of_admitted t ht hrest).of_step hne hs (.taken hp hidle)
    · have hsame : t.Admitted := fun b hb => hadm b (hkept ▸ hb)
      exact (endsWell_of_admitted t ht hsame).of_step hne hs (.of_pending_eq hkept hne)
termination_by (s.pending.length, s.load)
decreasing_by
  · exact .left _ _ hless
  · rw [hkept]
    exact .right _ hload

/-- Settles O32. -/
theorem everyAdmittedProgramEnds : Obligations.EveryAdmittedProgramEnds := by
  intro s h hadm
  obtain ⟨k, t, hend, ht, hidle⟩ := endsWell_of_admitted s h hadm
  refine ⟨k, t, hend, ht, fun hw => ?success⟩
  case success => rw [State.successfulEnd, hidle (.inr hw)]; rfl

end Sys2Proof.Machine
end

section
/-! PROOFS. How long a recorded error stays (60_exceptions.md R223, R229). -/

namespace Sys2Proof.Machine

/-- An action leaves ERR and ERRCODE as they are, or is a command other than NOP or an illegal word, met while idle. -/
theorem BlockEffect.err {a : HostAction} {s t : State} (e : BlockEffect a s t) :
    (t.status.err = s.status.err ∧ t.status.errCode = s.status.errCode) ∨
      (s.phase = .idle ∧ ∃ i, i ≠ .nop ∧ a = command i) ∨
      (s.phase = .idle ∧ t.status.err = true ∧ t.status.errCode = illegalCode ∧
        ∃ w e, decode w = .error e ∧ a = wr .cmd w) := by
  cases e with
  | unchanged | dropped => exact .inl ⟨rfl, rfl⟩
  | stored => simp [State.writeReg_status]
  | recorded w e _ hw hp => exact .inr (.inr ⟨hp, rfl, rfl, w, e, hw, rfl⟩)
  | accepted op _ hp | refused op _ hp => exact .inr (.inl ⟨hp, commandOf op, commandOf_ne_nop op, rfl⟩)
  | cleared _ hp => exact .inr (.inl ⟨hp, .clear, nofun, rfl⟩)

/-- Settles O40, by the cases of a step. -/
theorem errorPersistsUntilNextCommand : Obligations.ErrorPersistsUntilNextCommand := by
  intro s t hs herr
  obtain ⟨-, rfl⟩ | rfl | ⟨rest, hp, rfl⟩ | ⟨a, rest, due, hp, e⟩ := step_blockEffect hs
  · exact .inl ⟨herr, rfl⟩
  · exact .inl ⟨herr, rfl⟩
  · exact .inr ⟨rest, .inl hp⟩
  · obtain ⟨hkept, hcode⟩ | ⟨hidle, i, hi, rfl⟩ | ⟨hidle, hset, hcode, w, reason, hw, rfl⟩ := e.err
    · exact .inl ⟨hkept.trans herr, hcode⟩
    · exact .inr ⟨rest, .inr (.inl ⟨hidle, i, hi, hp⟩)⟩
    · exact .inr ⟨rest, .inr (.inr ⟨hidle, hset, hcode, w, reason, hw, hp⟩)⟩

end Sys2Proof.Machine
end

section
/-! PROOFS. The reset input, and a command in flight until its completion (70_reset_and_hazards.md R250, R251, R262, R267,
R270). -/

namespace Sys2Proof.Machine

/-! ### The reset input -/

/-- After the reset input every register reads what it reads at reset (70_reset_and_hazards.md R250). -/
theorem readReg_applyReset (s : State) (r : Reg) : s.applyReset.readReg r = State.reset.readReg r := by
  cases r <;> rfl

/-- Settles O10: the step is the reset, and it leaves the block idle, where the engine has no turn. -/
theorem resetInputAbortsAndResets : Obligations.ResetInputAbortsAndResets := by
  intro s rest hp he
  obtain ⟨hregs, -⟩ := resetStateValues
  exact ⟨_, step_host he hp, fun r => (readReg_applyReset _ r).trans (hregs r), rfl, rfl, rfl, rfl, engineTurn_idle rfl⟩

/-! ### The completion -/

/-- Settles O26. -/
theorem completionTurn : Obligations.CompletionTurn :=
  engineTurn_iff

/-- Settles O29, register by register: the completion reads only what was latched, and the two change different
flags. -/
theorem operandWriteCommutesWithCompletion : Obligations.OperandWriteCommutesWithCompletion := by
  intro s w r
  cases r <;> rfl

/-! ### A command in flight -/

/-- An action of the host that is no reset leaves a command in flight, with its count and what it latched. -/
theorem HostEffect.keeps_flight {a : HostAction} {s t : State} (e : HostEffect a s t) (hrun : s.phase = .run) :
    t.phase = .run ∧ t.due = s.due ∧ t.result = s.result := by
  cases e with
  | store r w => simp [hrun, State.result]
  | ran _ _ _ _ _ he => obtain ⟨-, rfl⟩ | rfl := he.of_busy hrun <;> exact ⟨hrun, rfl, rfl⟩
  | illegal =>
    obtain ⟨-, ht⟩ | ⟨hidle, -⟩ := illegalCommand_cases s
    · rw [ht]
      exact ⟨hrun, rfl, rfl⟩
    · cases hrun.symm.trans hidle
  | read | required | waiting | waited => exact ⟨hrun, rfl, rfl⟩

/-- The host's actions to come neither reset the block nor fault. -/
def State.HarmlessAhead (s : State) : Prop :=
  ∀ h ∈ s.pending, h.harmless = true

/-- Only a WAIT that goes on waiting puts an action back, its own. -/
theorem HostEffect.harmlessAhead {a : HostAction} {s t : State} (e : HostEffect a s t) (ha : a.harmless = true)
    (h : s.HarmlessAhead) : t.HarmlessAhead := by
  obtain ⟨hkept, -⟩ | ⟨-, -, hput, -⟩ := e.pending
  · rwa [State.HarmlessAhead, hkept]
  · rw [State.HarmlessAhead, hput]
    exact List.forall_mem_cons.mpr ⟨ha, h⟩

/-- Before the completion is due, a harmless action brings the command in flight one access nearer to it. -/
theorem step_keeps_flight {s : State} (h : s.HarmlessAhead) (hrun : s.phase = .run) (he : engineTurn s = false) :
    ∃ t, step s = .next t ∧ t.HarmlessAhead ∧ t.phase = .run ∧ t.due = s.due - 1 ∧ t.result = s.result := by
  have hadm : s.Admitted := fun a ha => .inr (h a ha)
  obtain ⟨t, hs⟩ := hadm.step_next
  refine ⟨t, hs, ?_⟩
  cases step_effect hs with
  | completed _ hturn => cases he.symm.trans hturn
  | idled _ hidle => cases hrun.symm.trans hidle
  | wasReset _ _ _ hp => cases h .reset (by simp [hp])
  | acted a _ _ rest _ hp e =>
    rw [State.HarmlessAhead, hp, List.forall_mem_cons] at h
    obtain ⟨ha, hrest⟩ := h
    rw [State.tick_run (s := { s with pending := rest }) hrun] at e
    exact ⟨e.harmlessAhead ha hrest, e.keeps_flight hrun⟩

/-- Within `n` steps the block is idle with BUSY = 0, DONE = 1 and `out` in DOUT. -/
def State.CompletesWithin (out : Bits 64) (n : Nat) (s : State) : Prop :=
  ∃ k t, k ≤ n ∧ core.run k s = .next t ∧
    t.phase = .idle ∧ t.status.busy = false ∧ t.status.done = true ∧ t.doutSeq = out

theorem State.CompletesWithin.of_engineTurn {s : State} (n : Nat) (he : engineTurn s = true) :
    s.CompletesWithin s.result (n + 1) :=
  ⟨1, s.complete, Nat.succ_le_succ n.zero_le, run_succ (step_engine he) 0, rfl, rfl, rfl, doutSeq_complete s⟩

theorem State.CompletesWithin.of_step {out : Bits 64} {n : Nat} {s t : State} (hs : step s = .next t)
    (ht : t.CompletesWithin out n) : s.CompletesWithin out (n + 1) := by
  obtain ⟨k, u, hk, hrun, hu⟩ := ht
  exact ⟨k + 1, u, Nat.succ_le_succ hk, (run_succ hs k).trans hrun, hu⟩

/-- By induction on the accesses still due (70_reset_and_hazards.md R267). -/
theorem completes_within_due {d : Nat} {s : State} (h : s.HarmlessAhead) (hrun : s.phase = .run) (hd : s.due = d) :
    s.CompletesWithin s.result (d + 1) := by
  induction d generalizing s with
  | zero => exact .of_engineTurn 0 ((engineTurn_iff s).mpr ⟨hrun, .inl hd⟩)
  | succ d ih =>
    cases he : engineTurn s with
    | true => exact .of_engineTurn _ he
    | false =>
      obtain ⟨t, hs, ht, hph, hdue, hres⟩ := step_keeps_flight h hrun he
      exact hres ▸ .of_step hs (ih ht hph (by rw [hdue, hd, Nat.add_sub_cancel]))

/-- Settles O30. -/
theorem acceptedCommandCompletes : Obligations.AcceptedCommandCompletes :=
  fun _ hrun h => completes_within_due h hrun rfl

end Sys2Proof.Machine
end

section
/-! PROOFS. What the reset input keeps: the host's own fields and the command count (log 13). -/

namespace Sys2Proof.Machine

/-- Settles O11: the step takes the reset off the stream, and the reset writes none of the four fields. -/
theorem resetKeepsHostView : Obligations.ResetKeepsHostView :=
  fun _ _ hp he =>
    ⟨_, step_host he hp, State.applyReset_pending _, State.applyReset_readBack _, State.applyReset_reqMet _,
      State.applyReset_serial _⟩

end Sys2Proof.Machine
end
